-- ==== Sys2Proof/Word.lean ====
section
/-! DEFINITION. The word types of the block: 32-bit record words (R120), bytes (R13), 48-bit offsets (R9). -/

namespace Sys2Proof

/-- A 32-bit word: command, result and PHY-packet words (00_scope.md R11, 30_encoding.md R120). -/
abbrev Word := BitVec 32

/-- One payload byte (00_scope.md R13). -/
abbrev Byte := BitVec 8

/-- A 48-bit byte address of a node's address space (20_memory.md R81). -/
abbrev Offset := BitVec 48

end Sys2Proof
end

