-- ==== Sys2Proof/Machine/Bits.lean ====
section
/-! DEFINITION. Bit fields, big-endian byte order and payload packing (00_scope.md R11-R13, 20_memory.md R84,
30_encoding.md R122). -/

namespace Sys2Proof

/-- `v[lo + width - 1 : lo]` of a 32-bit word (00_scope.md R11). -/
def field (v : Word) (lo width : Nat) : BitVec width := v.extractLsb' lo width

/-- A field's value at bit `lo` of a 32-bit word, all other bits 0: `v << lo` (00_scope.md R12). -/
def place {n : Nat} (v : BitVec n) (lo : Nat) : Word := v.setWidth 32 <<< lo

/-- Four bytes as one word, the first most significant (20_memory.md R84). -/
def beWord (b0 b1 b2 b3 : Byte) : Word := place b0 24 ||| place b1 16 ||| place b2 8 ||| place b3 0

/-- `BE_4(v)`: a word's four bytes, most significant first (00_scope.md R13, 20_memory.md R84). -/
def wordBytes (w : Word) : List Byte := [field w 24 8, field w 16 8, field w 8 8, field w 0 8]

/-- `ceil(n/4)`: the words that n payload bytes take (30_encoding.md R122). -/
def wordsFor (n : Nat) : Nat := (n + 3) / 4

/-- Payload bytes as record words: byte i in word i div 4, the first byte most significant, padding written as 0
(30_encoding.md R122). -/
def packBytes : List Byte → List Word
  | [] => []
  | [a] => [beWord a 0 0 0]
  | [a, b] => [beWord a b 0 0]
  | [a, b, c] => [beWord a b c 0]
  | a :: b :: c :: d :: rest => beWord a b c d :: packBytes rest

/-- The bytes of a list of words, most significant byte of each word first. -/
def bytesOf : List Word → List Byte
  | [] => []
  | w :: ws => wordBytes w ++ bytesOf ws

/-- The first `n` payload bytes of record words; padding is ignored (30_encoding.md R122). -/
def unpackBytes (n : Nat) (ws : List Word) : List Byte := (bytesOf ws).take n

/-- How many Self-ID words follow a DECODE_SELF_ID header with count `n` (R125). -/
def selfIdWordCount (n : BitVec 16) : Nat := if 1 ≤ n.toNat ∧ n.toNat ≤ 3 then n.toNat else 0

end Sys2Proof
end

