-- ==== Sys2Proof/Syntax.lean ====
section
/-! DEFINITION. The instructions of the block: one constructor per row of spec/opcode_table.json (R124), and the
ways in which a whole record is no instruction of the table. -/

namespace Sys2Proof

/-- The six lock kinds of 30_encoding.md R141, in the order of their `SUB` codes 1 to 6. -/
inductive LockKind where
  | maskSwap
  | compareSwap
  | fetchAdd
  | littleAdd
  | boundedAdd
  | wrapAdd
deriving DecidableEq, Repr

/-- The commands of the block (30_encoding.md R124). A payload stands as its bytes: its length is the header's `ARG`
(R122). A lock's operands stand as their bytes, so `w1` and `w2` of R124 are the two lists' lengths, and an absent
operand2 is the empty list. -/
inductive Instr where
  /-- OPC 0x0 (R460). -/
  | connect
  /-- OPC 0x1 (R240). -/
  | sendPhy (d0 d1 mask bits : Word)
  /-- OPC 0x2 (R251). -/
  | sendPhySym (q mask bits : Word)
  /-- OPC 0x3 (R281). -/
  | asyncRead (offset : Offset) (len : BitVec 16)
  /-- OPC 0x4 (R282). -/
  | asyncWrite (offset : Offset) (payload : List Byte)
  /-- OPC 0x5, SUB 1 (R323, R324). -/
  | asyncLockMaskSwap (offset : Offset) (op1 op2 : List Byte)
  /-- OPC 0x5, SUB 2 (R323, R325). -/
  | asyncLockCompareSwap (offset : Offset) (op1 op2 : List Byte)
  /-- OPC 0x5, SUB 3 (R323, R326). -/
  | asyncLockFetchAdd (offset : Offset) (op1 op2 : List Byte)
  /-- OPC 0x5, SUB 4 (R323, R327). -/
  | asyncLockLittleAdd (offset : Offset) (op1 op2 : List Byte)
  /-- OPC 0x5, SUB 5 (R323, R328). -/
  | asyncLockBoundedAdd (offset : Offset) (op1 op2 : List Byte)
  /-- OPC 0x5, SUB 6 (R323, R329). -/
  | asyncLockWrapAdd (offset : Offset) (op1 op2 : List Byte)
  /-- OPC 0x6, SUB 1 (R320, R324). -/
  | encodeLockMaskSwap (op1 op2 : List Byte)
  /-- OPC 0x6, SUB 2 (R320, R325). -/
  | encodeLockCompareSwap (op1 op2 : List Byte)
  /-- OPC 0x6, SUB 3 (R320, R326). -/
  | encodeLockFetchAdd (op1 op2 : List Byte)
  /-- OPC 0x6, SUB 4 (R320, R327). -/
  | encodeLockLittleAdd (op1 op2 : List Byte)
  /-- OPC 0x6, SUB 5 (R320, R328). -/
  | encodeLockBoundedAdd (op1 op2 : List Byte)
  /-- OPC 0x6, SUB 6 (R320, R329). -/
  | encodeLockWrapAdd (op1 op2 : List Byte)
  /-- OPC 0x7 (R420): `n` is the header's `ARG`; the words are there only when 1 ≤ n ≤ 3 (R125). -/
  | decodeSelfId (n : BitVec 16) (words : List Word)
  /-- OPC 0x8 (R427): `n` is the header's `ARG`. -/
  | encodeSelfId (n : BitVec 16) (f0 f1 : Word)
  /-- OPC 0x9 (R390). -/
  | scanPhyRegs (phy : BitVec 6)
  /-- OPC 0xA (R360). -/
  | sendFcp (payload : List Byte)
  /-- OPC 0xB, SUB 0 (R463). -/
  | busResetReqLong
  /-- OPC 0xB, SUB 1 (R463). -/
  | busResetReqShort
  /-- OPC 0xC (R464): the header's other 28 bits are ignored. -/
  | illegalC (rest : BitVec 28)
  /-- OPC 0xD (R464). -/
  | illegalD (rest : BitVec 28)
  /-- OPC 0xE (R464). -/
  | illegalE (rest : BitVec 28)
  /-- OPC 0xF (R464). -/
  | illegalF (rest : BitVec 28)
deriving DecidableEq, Repr

/-- Why a whole record is no row of the opcode table. The record is still consumed at its full length and answered
with an InvalidArgument fault (30_encoding.md R125, R151); `opc` is its opcode. -/
inductive Reject where
  /-- A reserved header or OFF_HI bit is set (R466): InvalidArgument(RESERVED_BITS). -/
  | reservedBits (opc : BitVec 4)
  /-- OPC 0x5 with `SUB` 0 or 7 to 15 (R330): InvalidArgument(BAD_LOCK_OP). -/
  | badAsyncLockOp
  /-- OPC 0x6 with `SUB` 0 or 7 to 15 (R330): InvalidArgument(BAD_LOCK_OP). -/
  | badEncodeLockOp
  /-- OPC 0xB with `SUB` 2 to 15 (R149): InvalidArgument(BAD_RESET_KIND). -/
  | badResetKind
deriving DecidableEq, Repr

/-- What one whole command record is. -/
inductive Decoded where
  | instr (i : Instr)
  | reject (r : Reject)
deriving DecidableEq, Repr

end Sys2Proof
end

