-- ==== Sys2Proof/WellFormed.lean ====
section
/-! DEFINITION. Which instruction terms a command record can carry (30_encoding.md R121, R124, R125). -/

namespace Sys2Proof

/-- A payload fits the 16-bit length field `ARG` (R121). -/
def payloadFits (b : List Byte) : Bool := decide (b.length < 2 ^ 16)

/-- Both lock operands fit their 8-bit width fields (R124). -/
def operandsFit (op1 op2 : List Byte) : Bool := decide (op1.length < 2 ^ 8) && decide (op2.length < 2 ^ 8)

/-- The instruction's operands are ones a record can carry. Operands of a fixed width are so by their type. -/
def Instr.wellFormed : Instr → Bool
  | .connect => true
  | .sendPhy _ _ _ _ => true
  | .sendPhySym _ _ _ => true
  | .asyncRead _ _ => true
  | .asyncWrite _ b => payloadFits b
  | .asyncLockMaskSwap _ a b => operandsFit a b
  | .asyncLockCompareSwap _ a b => operandsFit a b
  | .asyncLockFetchAdd _ a b => operandsFit a b
  | .asyncLockLittleAdd _ a b => operandsFit a b
  | .asyncLockBoundedAdd _ a b => operandsFit a b
  | .asyncLockWrapAdd _ a b => operandsFit a b
  | .encodeLockMaskSwap a b => operandsFit a b
  | .encodeLockCompareSwap a b => operandsFit a b
  | .encodeLockFetchAdd a b => operandsFit a b
  | .encodeLockLittleAdd a b => operandsFit a b
  | .encodeLockBoundedAdd a b => operandsFit a b
  | .encodeLockWrapAdd a b => operandsFit a b
  | .decodeSelfId n ws => ws.length == selfIdWordCount n
  | .encodeSelfId _ _ _ => true
  | .scanPhyRegs _ => true
  | .sendFcp b => payloadFits b
  | .busResetReqLong => true
  | .busResetReqShort => true
  | .illegalC _ => true
  | .illegalD _ => true
  | .illegalE _ => true
  | .illegalF _ => true

end Sys2Proof
end

