-- ==== Sys2Proof/Decode.lean ====
section
/-! DEFINITION. The decoder of command records (30_encoding.md R120-R125, 47_context_commands.md R466), total on every
list of words, and after it the encoder. -/

namespace Sys2Proof

/-- `OPC`: bits 31:28 of the header (R121). -/
def headerOpc (h : Word) : BitVec 4 := field h 28 4

/-- `SUB`: bits 27:24 of the header (R121). -/
def headerSub (h : Word) : BitVec 4 := field h 24 4

/-- `RSV`: bits 23:16 of the header (R121). -/
def headerRsv (h : Word) : BitVec 8 := field h 16 8

/-- `ARG`: bits 15:0 of the header (R121). -/
def headerArg (h : Word) : BitVec 16 := field h 0 16

/-- `w1`: ARG[15:8] of a lock command (R124). -/
def headerW1 (h : Word) : Nat := (field h 8 8).toNat

/-- `w2`: ARG[7:0] of a lock command (R124). -/
def headerW2 (h : Word) : Nat := (field h 0 8).toNat

/-- `L(H)`: the number of operand words after the header (R125). -/
def operandCount (h : Word) : Nat :=
  match (headerOpc h).toNat with
  | 0x1 => 4
  | 0x2 => 3
  | 0x3 => 2
  | 0x4 => 2 + wordsFor (headerArg h).toNat
  | 0x5 => 2 + wordsFor (headerW1 h + headerW2 h)
  | 0x6 => wordsFor (headerW1 h + headerW2 h)
  | 0x7 => selfIdWordCount (headerArg h)
  | 0x8 => 2
  | 0xA => wordsFor (headerArg h).toNat
  | _ => 0

/-- The record at the head of a word stream: header, its `L(H)` operand words, the words after it. `none` while the
record is not there in full: CMD_IN takes a whole record at once (R120). -/
def frame : List Word → Option (Word × List Word × List Word)
  | [] => none
  | h :: t =>
    if operandCount h ≤ t.length then some (h, t.take (operandCount h), t.drop (operandCount h)) else none

/-- Operand word `k` of a record, counted from 0 (`words[k+1]` of R465). -/
def operand (ops : List Word) (k : Nat) : Word := ops.getD k 0

/-- A 48-bit offset from its two operand words (R123). -/
def offsetOf (hi lo : Word) : Offset := (field hi 0 16).setWidth 48 <<< 32 ||| lo.setWidth 48

/-- The RESERVED_BITS checks of CheckHeader for opcodes 0x0 to 0xB (47_context_commands.md R466). -/
def reservedBitsSet (h : Word) (ops : List Word) : Bool :=
  let opc := (headerOpc h).toNat
  headerRsv h != 0
  || (headerSub h != 0 && !(opc == 0x5 || opc == 0x6 || opc == 0xB))
  || (headerArg h != 0 && (opc == 0x0 || opc == 0x1 || opc == 0x2 || opc == 0xB))
  || (opc == 0x9 && field h 6 10 != 0)
  || ((opc == 0x3 || opc == 0x4 || opc == 0x5) && field (operand ops 0) 16 16 != 0)

/-- The lock kind of a `SUB` field; none for 0 and 7 to 15 (R141). -/
def lockKindOf (sub : BitVec 4) : Option LockKind :=
  match sub.toNat with
  | 1 => some .maskSwap
  | 2 => some .compareSwap
  | 3 => some .fetchAdd
  | 4 => some .littleAdd
  | 5 => some .boundedAdd
  | 6 => some .wrapAdd
  | _ => none

/-- The ASYNC_LOCK instruction of a kind (R124). -/
def asyncLockInstr (k : LockKind) (offset : Offset) (op1 op2 : List Byte) : Instr :=
  match k with
  | .maskSwap => .asyncLockMaskSwap offset op1 op2
  | .compareSwap => .asyncLockCompareSwap offset op1 op2
  | .fetchAdd => .asyncLockFetchAdd offset op1 op2
  | .littleAdd => .asyncLockLittleAdd offset op1 op2
  | .boundedAdd => .asyncLockBoundedAdd offset op1 op2
  | .wrapAdd => .asyncLockWrapAdd offset op1 op2

/-- The ENCODE_LOCK instruction of a kind (R124). -/
def encodeLockInstr (k : LockKind) (op1 op2 : List Byte) : Instr :=
  match k with
  | .maskSwap => .encodeLockMaskSwap op1 op2
  | .compareSwap => .encodeLockCompareSwap op1 op2
  | .fetchAdd => .encodeLockFetchAdd op1 op2
  | .littleAdd => .encodeLockLittleAdd op1 op2
  | .boundedAdd => .encodeLockBoundedAdd op1 op2
  | .wrapAdd => .encodeLockWrapAdd op1 op2

/-- Operand1 of a lock: the first w1 of the packed operand bytes (R124). -/
def lockOp1 (h : Word) (ws : List Word) : List Byte := unpackBytes (headerW1 h) ws

/-- Operand2 of a lock: the next w2 bytes, with no padding in between (R124). -/
def lockOp2 (h : Word) (ws : List Word) : List Byte :=
  (unpackBytes (headerW1 h + headerW2 h) ws).drop (headerW1 h)

/-- The opcode map (R124) for a record that CheckHeader has passed: opcodes 0x0 to 0xB. -/
def decodeChecked (h : Word) (ops : List Word) : Decoded :=
  match (headerOpc h).toNat with
  | 0x0 => .instr .connect
  | 0x1 => .instr (.sendPhy (operand ops 0) (operand ops 1) (operand ops 2) (operand ops 3))
  | 0x2 => .instr (.sendPhySym (operand ops 0) (operand ops 1) (operand ops 2))
  | 0x3 => .instr (.asyncRead (offsetOf (operand ops 0) (operand ops 1)) (headerArg h))
  | 0x4 => .instr (.asyncWrite (offsetOf (operand ops 0) (operand ops 1))
      (unpackBytes (headerArg h).toNat (ops.drop 2)))
  | 0x5 =>
    match lockKindOf (headerSub h) with
    | some k => .instr (asyncLockInstr k (offsetOf (operand ops 0) (operand ops 1))
        (lockOp1 h (ops.drop 2)) (lockOp2 h (ops.drop 2)))
    | none => .reject .badAsyncLockOp
  | 0x6 =>
    match lockKindOf (headerSub h) with
    | some k => .instr (encodeLockInstr k (lockOp1 h ops) (lockOp2 h ops))
    | none => .reject .badEncodeLockOp
  | 0x7 => .instr (.decodeSelfId (headerArg h) ops)
  | 0x8 => .instr (.encodeSelfId (headerArg h) (operand ops 0) (operand ops 1))
  | 0x9 => .instr (.scanPhyRegs (field h 0 6))
  | 0xA => .instr (.sendFcp (unpackBytes (headerArg h).toNat ops))
  | _ =>
    match (headerSub h).toNat with
    | 0 => .instr .busResetReqLong
    | 1 => .instr .busResetReqShort
    | _ => .reject .badResetKind

/-- One whole record, header and operand words (R124, R151, R466): opcodes 0xC to 0xF first, then the reserved bits. -/
def decodeRecord (h : Word) (ops : List Word) : Decoded :=
  match (headerOpc h).toNat with
  | 0xC => .instr (.illegalC (field h 0 28))
  | 0xD => .instr (.illegalD (field h 0 28))
  | 0xE => .instr (.illegalE (field h 0 28))
  | 0xF => .instr (.illegalF (field h 0 28))
  | _ => if reservedBitsSet h ops then .reject (.reservedBits (headerOpc h)) else decodeChecked h ops

/-- The first record of a word stream and the words after it; `none` while no whole record is there. -/
def decode (ws : List Word) : Option (Decoded × List Word) :=
  match frame ws with
  | some (h, ops, rest) => some (decodeRecord h ops, rest)
  | none => none

/-- A header word from its fields, RSV = 0 (R121). -/
def header (opc sub : BitVec 4) (arg : BitVec 16) : Word := place opc 28 ||| place sub 24 ||| place arg 0

/-- The header's `ARG` for a payload (R124). -/
def lengthArg (b : List Byte) : BitVec 16 := BitVec.ofNat 16 b.length

/-- The header's `ARG` of a lock: w1 then w2 (R124). -/
def widthsArg (op1 op2 : List Byte) : BitVec 16 :=
  BitVec.ofNat 16 op1.length <<< 8 ||| BitVec.ofNat 16 op2.length

/-- `OFF_HI` and `OFF_LO` (R123). -/
def offsetWords (o : Offset) : List Word := [place (o.extractLsb' 32 16) 0, o.extractLsb' 0 32]

/-- An ASYNC_LOCK record (R323). -/
def encodeAsyncLock (sub : BitVec 4) (o : Offset) (op1 op2 : List Byte) : List Word :=
  header 0x5 sub (widthsArg op1 op2) :: (offsetWords o ++ packBytes (op1 ++ op2))

/-- An ENCODE_LOCK record (R320). -/
def encodeEncodeLock (sub : BitVec 4) (op1 op2 : List Byte) : List Word :=
  header 0x6 sub (widthsArg op1 op2) :: packBytes (op1 ++ op2)

/-- The record of an instruction (R124, R125), payload padding written as 0 (R122). -/
def encode : Instr → List Word
  | .connect => [header 0x0 0 0]
  | .sendPhy d0 d1 mask bits => [header 0x1 0 0, d0, d1, mask, bits]
  | .sendPhySym q mask bits => [header 0x2 0 0, q, mask, bits]
  | .asyncRead o len => header 0x3 0 len :: offsetWords o
  | .asyncWrite o b => header 0x4 0 (lengthArg b) :: (offsetWords o ++ packBytes b)
  | .asyncLockMaskSwap o a b => encodeAsyncLock 1 o a b
  | .asyncLockCompareSwap o a b => encodeAsyncLock 2 o a b
  | .asyncLockFetchAdd o a b => encodeAsyncLock 3 o a b
  | .asyncLockLittleAdd o a b => encodeAsyncLock 4 o a b
  | .asyncLockBoundedAdd o a b => encodeAsyncLock 5 o a b
  | .asyncLockWrapAdd o a b => encodeAsyncLock 6 o a b
  | .encodeLockMaskSwap a b => encodeEncodeLock 1 a b
  | .encodeLockCompareSwap a b => encodeEncodeLock 2 a b
  | .encodeLockFetchAdd a b => encodeEncodeLock 3 a b
  | .encodeLockLittleAdd a b => encodeEncodeLock 4 a b
  | .encodeLockBoundedAdd a b => encodeEncodeLock 5 a b
  | .encodeLockWrapAdd a b => encodeEncodeLock 6 a b
  | .decodeSelfId n ws => header 0x7 0 n :: ws
  | .encodeSelfId n f0 f1 => [header 0x8 0 n, f0, f1]
  | .scanPhyRegs phy => [header 0x9 0 (phy.setWidth 16)]
  | .sendFcp b => header 0xA 0 (lengthArg b) :: packBytes b
  | .busResetReqLong => [header 0xB 0 0]
  | .busResetReqShort => [header 0xB 1 0]
  | .illegalC r => [place 0xC#4 28 ||| place r 0]
  | .illegalD r => [place 0xD#4 28 ||| place r 0]
  | .illegalE r => [place 0xE#4 28 ||| place r 0]
  | .illegalF r => [place 0xF#4 28 ||| place r 0]

/-- The words of a record whose bits are the number `w`, as spec/opcode_table.json numbers them: bit 0 is the least
significant bit of the header, each later word counts on from it, and every bit from `nbits` up is 0. -/
def tableWords (nbits w : Nat) : List Word :=
  let v := w % 2 ^ nbits
  let h := BitVec.ofNat 32 v
  h :: (List.range (operandCount h)).map (fun k => BitVec.ofNat 32 (v >>> (32 * (k + 1))))

/-- The instruction this decoder reads from the record whose bits are `w`; none where it rejects the record. -/
def decodeTableWord (nbits w : Nat) : Option Instr :=
  match decode (tableWords nbits w) with
  | some (.instr i, _) => some i
  | _ => none

end Sys2Proof
end

