-- ==== Sys2Proof/Machine/Codes.lean ====
section
/-! DEFINITION. The code tables of the block: status and info codes (R500), tcodes (R140), lock tcodes (R141), rcodes
(R142), port states (R144), event types (R150), PHY packet classes and types (R131, R133). -/

namespace Sys2Proof.Machine

/-- Status OK (60_exceptions.md R500). -/
def statusOk : BitVec 4 := 0

/-- Status RemoteError, an outcome (60_exceptions.md R500, R505). -/
def statusRemoteError : BitVec 4 := 1

/-- The six fault kinds of 60_exceptions.md R500. -/
inductive FaultKind where
  | ioFailure
  | protocolTimeout
  | protocolCorruption
  | busReset
  | invalidOperandWidth
  | invalidArgument
deriving DecidableEq, Repr

/-- A fault's STATUS and FAULT_CODE value (60_exceptions.md R500). -/
def FaultKind.code : FaultKind → BitVec 4
  | .ioFailure => 2
  | .protocolTimeout => 3
  | .protocolCorruption => 4
  | .busReset => 5
  | .invalidOperandWidth => 6
  | .invalidArgument => 7

/-- The fatal faults leave the block FAULTED (60_exceptions.md R509). -/
def FaultKind.fatal : FaultKind → Bool
  | .ioFailure => true
  | .protocolTimeout => false
  | .protocolCorruption => true
  | .busReset => true
  | .invalidOperandWidth => false
  | .invalidArgument => false

/-! Info values of 60_exceptions.md R500. -/

def infoOpenFailed : Word := 1
def infoInfoFailed : Word := 2
def infoSubmitRejected : Word := 3
def infoSendFailed : Word := 4
def infoReadFailed : Word := 5
def infoShortRead : Word := 1
def infoShortTypedRecord : Word := 2
def infoArity : Word := 1
def infoWidth : Word := 2
def infoMismatch : Word := 3
def infoIllegalOpcode : Word := 1
def infoReservedBits : Word := 2
def infoNotConnected : Word := 3
def infoLengthTooLarge : Word := 4
def infoBadChainLength : Word := 5
def infoBadLockOp : Word := 6
def infoBadResetKind : Word := 7

/-! Request tcodes the block produces (30_encoding.md R140). -/

def tcodeWriteQuadlet : BitVec 5 := 0x0
def tcodeWriteBlock : BitVec 5 := 0x1
def tcodeReadQuadlet : BitVec 5 := 0x4
def tcodeReadBlock : BitVec 5 := 0x5

/-- The extended tcode of a lock kind, its `SUB` code (30_encoding.md R141). -/
def lockSub : LockKind → BitVec 4
  | .maskSwap => 1
  | .compareSwap => 2
  | .fetchAdd => 3
  | .littleAdd => 4
  | .boundedAdd => 5
  | .wrapAdd => 6

/-- `0x10 + extended_tcode`: the lock tcode handed to the kernel (30_encoding.md R141). -/
def lockTcode (k : LockKind) : BitVec 5 := 0x10 + (lockSub k).setWidth 5

/-- Whether a lock kind takes one operand (43_lock.md R321). -/
def oneOperand : LockKind → Bool
  | .maskSwap => false
  | .compareSwap => false
  | .fetchAdd => true
  | .littleAdd => true
  | .boundedAdd => false
  | .wrapAdd => false

/-! The rcodes of 30_encoding.md R142. The block reacts to COMPLETE and GENERATION; every other value is reported. -/

def rcodeComplete : BitVec 5 := 0x00
def rcodeConflictError : BitVec 5 := 0x04
def rcodeDataError : BitVec 5 := 0x05
def rcodeTypeError : BitVec 5 := 0x06
def rcodeAddressError : BitVec 5 := 0x07
def rcodeSendError : BitVec 5 := 0x10
def rcodeCancelled : BitVec 5 := 0x11
def rcodeBusy : BitVec 5 := 0x12
def rcodeGeneration : BitVec 5 := 0x13
def rcodeNoAck : BitVec 5 := 0x14

/-! Event type codes (30_encoding.md R150). -/

def typeBusReset : Word := 0x00
def typeResponse : Word := 0x01
def typeRequest : Word := 0x02
def typeRequest2 : Word := 0x06
def typeSent : Word := 0x08
def typeReceived : Word := 0x09

/-! Bus-reset kinds (30_encoding.md R149). -/

def resetLong : BitVec 4 := 0
def resetShort : BitVec 4 := 1

/-- The port states of a Self-ID field (30_encoding.md R144). -/
inductive PortState where
  | none
  | notConnected
  | parent
  | child
deriving DecidableEq, Repr

/-- The state a 2-bit port field names (30_encoding.md R144). -/
def portState (v : BitVec 2) : PortState :=
  match v.toNat with
  | 0 => .none
  | 1 => .notConnected
  | 2 => .parent
  | _ => .child

/-- The PHY packet classes of 30_encoding.md R131. -/
inductive PhyClass where
  | config
  | extended
  | linkOn
  | selfId
  | reserved
deriving DecidableEq, Repr

/-- The class of a PHY packet from its first word (30_encoding.md R131). -/
def phyClass (d0 : Word) : PhyClass :=
  match (field d0 30 2).toNat with
  | 0 => if field d0 22 2 != 0 then .config else .extended
  | 1 => .linkOn
  | 2 => .selfId
  | _ => .reserved

/-- The extended PHY packet types of 30_encoding.md R133. -/
inductive ExtendedType where
  | ping
  | remoteAccessBase
  | remoteReplyBase
  | remoteAccessPaged
  | remoteReplyPaged
  | remoteCommand
  | remoteConfirmation
  | resume
  | reserved
deriving DecidableEq, Repr

/-- The type of an extended PHY packet from `d0[21:18]` (30_encoding.md R133). -/
def extendedType (d0 : Word) : ExtendedType :=
  match (field d0 18 4).toNat with
  | 0x0 => .ping
  | 0x1 => .remoteAccessBase
  | 0x3 => .remoteReplyBase
  | 0x5 => .remoteAccessPaged
  | 0x7 => .remoteReplyPaged
  | 0x8 => .remoteCommand
  | 0xA => .remoteConfirmation
  | 0xF => .resume
  | _ => .reserved

end Sys2Proof.Machine
end

