-- ==== Sys2Proof/Machine/Ports.lean ====
section
/-! DEFINITION. The records on the block's ports: submissions and their answers, event records and the typed events the
decoder makes of them (10_state.md R30, 30_encoding.md R146-R150, 40_event_stream.md R204-R216). -/

namespace Sys2Proof.Machine

/-- A submission record on SUB_OUT (00_scope.md R15, 10_state.md R30). -/
inductive Submission where
  /-- R148. -/
  | phy (d0 d1 generation : Word)
  /-- R146. -/
  | async (tcode : BitVec 5) (offset : Offset) (length : BitVec 16) (payload : List Byte) (generation : Word)
      (broadcast : Bool)
  /-- R147. -/
  | response (handle : Nat) (rcode : BitVec 5) (payload : List Byte)
  /-- R213. -/
  | enablePhyRx
  /-- R214. -/
  | allocate (offset : Offset) (length : BitVec 16)
  /-- R215. -/
  | busReset (kind : BitVec 4)
  /-- R216. -/
  | getInfo
deriving DecidableEq, Repr

/-- ENV's answer to a submission other than GET_INFO (10_state.md R30, 30_encoding.md R146). -/
inductive SubmitAnswer where
  | ok (opId : Nat)
  | rejected
deriving DecidableEq, Repr, Inhabited

/-- The record `get_info` returns (40_event_stream.md R216): the card index, `rom_info` (read and ignored) and the
initial bus-reset snapshot. -/
structure InfoRecord where
  cardIndex : Word
  romInfo : List Byte := []
  generation : Word
  localNode : BitVec 6
  rootNode : BitVec 6
deriving DecidableEq, Repr, Inhabited

/-- ENV's answer to GET_INFO on an open handle (40_event_stream.md R216). The third answer, `no_device`, is no choice of
ENV's: the parameter `deviceHandle` decides it. -/
inductive InfoAnswer where
  | ok (r : InfoRecord)
  | rejected
deriving DecidableEq, Repr, Inhabited

/-- An event record as read from EVT_IN (30_encoding.md R150): its type code, its byte length, and the fields of every
type. Which of them mean anything, the type says; the `length` field of a RESPONSE or REQUEST is the number of its
payload bytes. -/
structure EventRecord where
  type : Word
  len : Nat
  generation : Word := 0
  localNode : BitVec 6 := 0
  rootNode : BitVec 6 := 0
  rcode : BitVec 5 := 0
  handle : Nat := 0
  tcode : BitVec 5 := 0
  offset : Offset := 0
  payload : List Byte := []
  status : BitVec 5 := 0
  ticks : Word := 0
  data : Word := 0
deriving DecidableEq, Repr, Inhabited

/-- What ENV gives at one poll (40_event_stream.md R204). -/
inductive PollAnswer where
  | event (r : EventRecord)
  | timeout
  | readFailed
deriving DecidableEq, Repr, Inhabited

/-- The typed events (40_event_stream.md R205). -/
inductive Event where
  | sent (status : BitVec 5) (ticks : Word)
  | phyReceived (data : Word)
  | asyncResponse (rcode : BitVec 5) (length : BitVec 16) (payload : List Byte) (handle : Nat)
  | asyncRequest (handle : Nat) (tcode : BitVec 5) (offset : Offset) (length : BitVec 16) (payload : List Byte)
  | busReset (generation : Word) (rootNode localNode : BitVec 6)
  | other
deriving DecidableEq, Repr

/-- The 16-bit `length` field of a record that carries a payload (30_encoding.md R150). -/
def EventRecord.payloadLength (r : EventRecord) : BitVec 16 := BitVec.ofNat 16 r.payload.length

/-- The record's first `length` payload bytes. -/
def EventRecord.payloadBytes (r : EventRecord) : List Byte := r.payload.take r.payloadLength.toNat

/-- The tagged-variant decode of a validated record: the fields its type has, and no others
(30_encoding.md R150, 40_event_stream.md R204, R205). -/
def decodeEvent (r : EventRecord) : Event :=
  if r.type = typeBusReset then .busReset r.generation r.rootNode r.localNode
  else if r.type = typeResponse then .asyncResponse r.rcode r.payloadLength r.payloadBytes r.handle
  else if r.type = typeRequest ∨ r.type = typeRequest2 then
    .asyncRequest r.handle r.tcode r.offset r.payloadLength r.payloadBytes
  else if r.type = typeSent then .sent r.status r.ticks
  else if r.type = typeReceived then .phyReceived r.data
  else .other

end Sys2Proof.Machine
end

