-- ==== Sys2Proof/Config.lean ====
section
/-! DEFINITION. The implementation parameters of 00_scope.md R10 and the model's free values. -/

namespace Sys2Proof

/-- The implementation parameters (00_scope.md R10, 40_event_stream.md R204, 10_state.md R32). They stand in State as plain
data that no step changes: "The block cannot change them" (R32), and every statement holds for every value of them. -/
structure Params where
  /-- `P_T_PHY_POLL`, in ms: the poll window of PHY_WAIT and SCAN_WAIT. -/
  tPhyPoll : Nat
  /-- `P_T_POLL`, in ms: the poll window of ASYNC_WAIT and FCP_WAIT. -/
  tPoll : Nat
  /-- `P_MAX_GEN_RETRIES`; none is the unbounded default. -/
  maxGenRetries : Option Nat
  /-- `P_MAX_PAYLOAD`, in bytes, at most 65535. -/
  maxPayload : BitVec 16
  /-- `P_MIN_EVENT_LEN`, in bytes. -/
  minEventLen : Nat
  /-- `P_MIN_LEN(0x00)`. -/
  minLenBusReset : Nat
  /-- `P_MIN_LEN(0x01)`. -/
  minLenResponse : Nat
  /-- `P_MIN_LEN(0x02)`. -/
  minLenRequest : Nat
  /-- `P_MIN_LEN(0x06)`. -/
  minLenRequest2 : Nat
  /-- `P_MIN_LEN(0x08)`. -/
  minLenSent : Nat
  /-- `P_MIN_LEN(0x09)`. -/
  minLenReceived : Nat
  /-- `P_TICK_UNIT`: the length of one round-trip tick, in picoseconds (R10, U16). `RTT` is the raw count; no rule of the
  block reads the unit, `Machine.roundTripTime` does. -/
  tickUnit : Nat
  /-- `P_FCP_CMD_ADDR`. -/
  fcpCmdAddr : Offset
  /-- `P_FCP_RESP_ADDR`. -/
  fcpRespAddr : Offset
  /-- `P_FCP_RESP_LEN`. -/
  fcpRespLen : BitVec 16
  /-- The device handle, fixed for the block's life (10_state.md R30, R32; 40_event_stream.md R200); none where the
  `open(device_path)` before it failed (R216). -/
  deviceHandle : Option Nat
  /-- `P_TARGET_NODE`: the node the device handle addresses. No rule of the block reads it. -/
  targetNode : BitVec 6
  /-- The `local` flag of `P_TARGET_NODE` (10_state.md R32). No rule of the block reads it. -/
  targetIsLocal : Bool
deriving DecidableEq, Repr

/-- The bounds the spec sets on the parameters: P_T_PHY_POLL = 100 ms and P_T_POLL in [100, 123] ms (R10);
P_MIN_LEN(type) ≥ P_MIN_EVENT_LEN (40_event_stream.md R204); a finite retry bound small enough that `SUBMITS` cannot wrap
(10_state.md R37). P_MAX_PAYLOAD ≤ 65535 holds by its width. -/
def Params.wf (p : Params) : Bool :=
  p.tPhyPoll == 100 && decide (100 ≤ p.tPoll) && decide (p.tPoll ≤ 123)
  && decide (p.minEventLen ≤ p.minLenBusReset) && decide (p.minEventLen ≤ p.minLenResponse)
  && decide (p.minEventLen ≤ p.minLenRequest) && decide (p.minEventLen ≤ p.minLenRequest2)
  && decide (p.minEventLen ≤ p.minLenSent) && decide (p.minEventLen ≤ p.minLenReceived)
  && (match p.maxGenRetries with
      | none => true
      | some n => decide (n + 1 < 2 ^ 32))

/-- The parameters that `Machine.State.reset` stands for: R10's defaults and suggestions; for P_MAX_PAYLOAD the 512 bytes
of 95_test_vectors.md; for the rest that R10 leaves OPEN a DESIGN CHOICE (notes/assumptions/2.md; unsafe). -/
def Config.resetParams : Params where
  tPhyPoll := 100
  tPoll := 123
  maxGenRetries := none
  maxPayload := 512
  minEventLen := 12
  minLenBusReset := 12
  minLenResponse := 12
  minLenRequest := 12
  minLenRequest2 := 12
  minLenSent := 12
  minLenReceived := 12
  tickUnit := 1
  fcpCmdAddr := 0xFFFFF0000B00
  fcpRespAddr := 0xFFFFF0000D00
  fcpRespLen := 0x200
  deviceHandle := some 0
  targetNode := 0
  targetIsLocal := false

/-- FREE VALUE: how ENV answers a submission when State lists no answer for it, as a function of how many submissions came
before (10_state.md R31: ENV chooses; notes/assumptions/4.md; safe). -/
opaque Config.freeSubmitAnswer : Nat → Machine.SubmitAnswer

/-- FREE VALUE: how ENV answers GET_INFO when State lists no answer for it (10_state.md R31, 40_event_stream.md R216;
notes/assumptions/4.md; safe). -/
opaque Config.freeInfoAnswer : Nat → Machine.InfoAnswer

/-- FREE VALUE: what ENV gives at a poll for which State lists nothing, as a function of how many polls came before
(10_state.md R31: ENV chooses; 70_reset_and_hazards.md R609: a wait may go on for ever; notes/assumptions/3.md; safe). -/
opaque Config.freePollAnswer : Nat → Machine.PollAnswer

end Sys2Proof
end

