-- ==== Sys2Proof/Machine/Memory.lean ====
section
/-! DEFINITION. Byte memories in one canonical form. The block has no memory but its payload buffers `REQ_PAYLOAD`,
`RESP_DATA` and `FCP_REPLY` (20_memory.md R80); the informative responder (R324-R329) uses the same type. -/

namespace Sys2Proof.Machine

/-- A byte memory: (address, byte) pairs, addresses strictly rising, no pair holding the byte an unlisted address reads
as. -/
abbrev Memory := List Host.Cell

/-- What an unlisted address reads as: the spec gives the payload buffers no reset contents (⊥), so this 0 is a DESIGN
CHOICE (notes/assumptions/9.md; unsafe). -/
def unlistedByte : Byte := 0

/-- The byte at an address. -/
def readByte : Memory → Nat → Byte
  | [], _ => unlistedByte
  | (a, b) :: m, i => if a = i then b else readByte m i

/-- A cell in front of a memory, left out when it holds what an unlisted address reads as. -/
def consCell (i : Nat) (v : Byte) (m : Memory) : Memory := if v = unlistedByte then m else (i, v) :: m

/-- Write one byte, keeping the canonical form. -/
def writeByte : Memory → Nat → Byte → Memory
  | [], i, v => consCell i v []
  | (a, b) :: m, i, v =>
    if a < i then (a, b) :: writeByte m i v
    else if a = i then consCell i v m
    else consCell i v ((a, b) :: m)

/-- Write consecutive bytes from an address on. -/
def writeBytes (m : Memory) (i : Nat) : List Byte → Memory
  | [] => m
  | v :: vs => writeBytes (writeByte m i v) (i + 1) vs

/-- Read `n` consecutive bytes from an address on. -/
def readBytes (m : Memory) (i : Nat) : Nat → List Byte
  | 0 => []
  | n + 1 => readByte m i :: readBytes m (i + 1) n

/-- Every address of a memory is above `lo`. -/
def allAbove (lo : Nat) : Memory → Bool
  | [] => true
  | (a, _) :: m => decide (lo < a) && allAbove lo m

/-- The canonical form. -/
def Memory.wf : Memory → Bool
  | [] => true
  | (a, b) :: m => decide (b ≠ unlistedByte) && allAbove a m && Memory.wf m

end Sys2Proof.Machine
end

