-- ==== Sys2Proof/Machine/State.lean ====
section
/-! DEFINITION. The state of the block: every register of 10_state.md, its four ports with ENV's pending inputs, and the
implementation parameters; the reasons a step can stop; the state after reset (70_reset_and_hazards.md R600). -/

namespace Sys2Proof.Machine

/-- `PHASE`, the 3-bit control state (10_state.md R33), all eight codes. -/
inductive Phase where
  | idle
  | phyWait
  | asyncWait
  | fcpWait
  | scanWait
  | reserved5
  | reserved6
  | faulted
deriving DecidableEq, Repr

/-- The context group, the source's BusContext (10_state.md R32). -/
structure Context where
  gen : Word
  genValid : Bool
  localNode : BitVec 6
  rootNode : BitVec 6
  cardIndex : Word
  phyRxEn : Bool
  fcpRangeValid : Bool
  fcpRangeBase : Offset
  fcpRangeLen : BitVec 16
deriving DecidableEq, Repr

/-- The transaction flags (10_state.md R35). -/
structure Flags where
  awaitSent : Bool
  awaitResp : Bool
  rttValid : Bool
  fcpAckDone : Bool
  fcpReqDone : Bool
deriving DecidableEq, Repr

/-- PendingMatch: `RESP_MASK` and `RESP_BITS` (10_state.md R36). -/
structure PendingMatch where
  mask : Word
  bits : Word
deriving DecidableEq, Repr

/-- The async request registers `REQ_*` and `SUBMITS` (10_state.md R37). -/
structure Request where
  tcode : BitVec 5
  offset : Offset
  len : BitVec 16
  payload : Memory
  gen : Word
  submits : Word
deriving DecidableEq, Repr

/-- The async response registers `RESP_RCODE`, `RESP_LEN`, `RESP_DATA` (10_state.md R38). -/
structure Response where
  rcode : BitVec 5
  len : BitVec 16
  data : Memory
deriving DecidableEq, Repr

/-- The Self-ID chain file `CHAIN[0..2]`, `CHAIN_LEN` (10_state.md R39). -/
structure Chain where
  w0 : Word
  w1 : Word
  w2 : Word
  len : BitVec 2
deriving DecidableEq, Repr

/-- The six bytes `PHY_REGS[2]` to `PHY_REGS[7]` (10_state.md R40). -/
structure PhyRegs where
  r2 : Byte
  r3 : Byte
  r4 : Byte
  r5 : Byte
  r6 : Byte
  r7 : Byte
deriving DecidableEq, Repr

/-- The PHY register set: `SCAN_PHY`, `PHY_REGS`, `RX_MASK` (10_state.md R40). -/
structure Scan where
  phy : BitVec 6
  regs : PhyRegs
  rxMask : BitVec 8
deriving DecidableEq, Repr

/-- `FCP_ACK_RCODE`, `FCP_REPLY`, `FCP_REPLY_LEN` (10_state.md R41). -/
structure Fcp where
  ackRcode : BitVec 5
  reply : Memory
  replyLen : BitVec 16
deriving DecidableEq, Repr

/-- `LAST_RESP` and `RTT` (10_state.md R42). -/
structure PhyResult where
  lastResp : Word
  rtt : Word
deriving DecidableEq, Repr

/-- `FAULT_CODE` and `FAULT_INFO` (10_state.md R43). -/
structure FaultRegs where
  code : BitVec 4
  info : Word
deriving DecidableEq, Repr

/-- The machine. After the registers stand the ports of 10_state.md R30: the words the caller has put on CMD_IN and the
block has not taken; what ENV gives at the coming polls of EVT_IN; the result records given on RES_OUT and the submissions
made on SUB_OUT since reset, oldest first; ENV's answers to the coming submissions. `polls`, how many polls were made since
reset, is the model's own: it indexes the free values of polls for which nothing is listed (notes/assumptions/3.md). -/
structure State where
  phase : Phase
  cmdOp : BitVec 4
  ctx : Context
  flags : Flags
  pending : PendingMatch
  req : Request
  resp : Response
  chain : Chain
  scan : Scan
  fcp : Fcp
  phyRes : PhyResult
  faultRegs : FaultRegs
  cmdIn : List Word
  evtIn : List PollAnswer
  resOut : List (List Word)
  subOut : List Submission
  submitAnswers : List SubmitAnswer
  infoAnswers : List InfoAnswer
  polls : Nat
  params : Params
deriving DecidableEq, Repr

/-- Why a step stops. -/
inductive Fault where
  /-- `PHASE` holds the reserved code 5 or 6, which no rule writes (10_state.md R33; 93_implementation_defined.md U2 asks for
  a fault). Raised by `step`. Safe: the spec gives the block nothing to do there, and no run from reset gets there. -/
  | reservedPhase
deriving DecidableEq, Repr

/-- Why an instruction has no meaning. -/
inductive Refusal where
  /-- The instruction is not modelled yet. Raised by an arm of `exec` only; none is left. Safe. -/
  | notModelled (mnemonic : String)
deriving DecidableEq, Repr

/-- The machine right after reset (70_reset_and_hazards.md R600). A register that R600 leaves without a value (⊥) holds 0: a
DESIGN CHOICE (notes/assumptions/1.md; unsafe). No command, event or answer is pending and nothing has been put out; the
parameters are `Config.resetParams` (notes/assumptions/2.md). -/
def State.reset : State where
  phase := .idle
  cmdOp := 0
  ctx :=
    { gen := 0, genValid := false, localNode := 0, rootNode := 0, cardIndex := 0, phyRxEn := false,
      fcpRangeValid := false, fcpRangeBase := 0, fcpRangeLen := 0 }
  flags := { awaitSent := false, awaitResp := false, rttValid := false, fcpAckDone := false, fcpReqDone := false }
  pending := { mask := 0, bits := 0 }
  req := { tcode := 0, offset := 0, len := 0, payload := [], gen := 0, submits := 0 }
  resp := { rcode := 0, len := 0, data := [] }
  chain := { w0 := 0, w1 := 0, w2 := 0, len := 0 }
  scan := { phy := 0, regs := { r2 := 0, r3 := 0, r4 := 0, r5 := 0, r6 := 0, r7 := 0 }, rxMask := 0 }
  fcp := { ackRcode := 0, reply := [], replyLen := 0 }
  phyRes := { lastResp := 0, rtt := 0 }
  faultRegs := { code := 0, info := 0 }
  cmdIn := []
  evtIn := []
  resOut := []
  subOut := []
  submitAnswers := []
  infoAnswers := []
  polls := 0
  params := Config.resetParams

end Sys2Proof.Machine
end

