-- ==== Sys2Proof/Machine/Ops.lean ====
section
/-! DEFINITION. The shared operations: one update per group of State, result records, ending a command by `finish` or by a
fault (60_exceptions.md R512), submissions (40_event_stream.md R201-R217), polls (R204-R219) and the taking of a command
record (10_state.md R30). -/

namespace Sys2Proof.Machine

/-! ## Updates of State, one per group -/

def State.setPhase (s : State) (p : Phase) : State := { s with phase := p }
def State.setCmdOp (s : State) (o : BitVec 4) : State := { s with cmdOp := o }
def State.setCtx (s : State) (c : Context) : State := { s with ctx := c }
def State.setFlags (s : State) (f : Flags) : State := { s with flags := f }
def State.setPending (s : State) (p : PendingMatch) : State := { s with pending := p }
def State.setReq (s : State) (r : Request) : State := { s with req := r }
def State.setResp (s : State) (r : Response) : State := { s with resp := r }
def State.setChain (s : State) (c : Chain) : State := { s with chain := c }
def State.setScan (s : State) (c : Scan) : State := { s with scan := c }
def State.setFcp (s : State) (f : Fcp) : State := { s with fcp := f }
def State.setPhyRes (s : State) (r : PhyResult) : State := { s with phyRes := r }
def State.setFaultRegs (s : State) (f : FaultRegs) : State := { s with faultRegs := f }
def State.setCmdIn (s : State) (ws : List Word) : State := { s with cmdIn := ws }
/-- Put one result record on RES_OUT. -/
def State.emit (s : State) (ws : List Word) : State := { s with resOut := s.resOut ++ [ws] }
/-- Put one submission on SUB_OUT and take ENV's listed answer to it. -/
def State.putSub (s : State) (sub : Submission) : State :=
  { s with subOut := s.subOut ++ [sub], submitAnswers := s.submitAnswers.tail }
/-- Count one poll and take ENV's listed answer to it. -/
def State.takePoll (s : State) : State := { s with evtIn := s.evtIn.tail, polls := s.polls + 1 }
/-- Put GET_INFO on SUB_OUT and take ENV's listed answer to it. -/
def State.putGetInfo (s : State) : State :=
  { s with subOut := s.subOut ++ [.getInfo], infoAnswers := s.infoAnswers.tail }

/-! ## How far a command has got -/

/-- A command's pseudocode goes on from a state, or a `finish` or `raise` has ended it: then no later line of it runs
(60_exceptions.md R512). -/
inductive Flow where
  | go (s : State)
  | ended (s : State)
deriving DecidableEq, Repr

/-- The next line of a command, run only if the command goes on. -/
def Flow.andThen (f : Flow) (k : State → Flow) : Flow :=
  match f with
  | .go s => k s
  | .ended s => .ended s

/-- The state a command has reached. -/
def Flow.state (f : Flow) : State :=
  match f with
  | .go s => s
  | .ended s => s

/-! ## Result records and the two endings -/

/-- The words of a result record: STATUS, OPC, RCODE, LEN in RW0, INFO in RW1, then the data bytes packed
(30_encoding.md R126). -/
def resultWords (status opc : BitVec 4) (rcode : BitVec 5) (info : Word) (data : List Byte) : List Word :=
  (place status 28 ||| place opc 24 ||| place rcode 16 ||| place (BitVec.ofNat 16 data.length) 0) :: info :: packBytes data

/-- `finish(status, …)`: one result record, then IDLE (60_exceptions.md R512). -/
def finish (status : BitVec 4) (rcode : BitVec 5) (info : Word) (data : List Byte) (s : State) : State :=
  (s.emit (resultWords status s.cmdOp rcode info data)).setPhase .idle

/-- Where a fault leaves the block (60_exceptions.md R509). -/
def phaseAfterFault (k : FaultKind) : Phase := if k.fatal then .faulted else .idle

/-- TAKING A FAULT, with the INFO and data its result record carries: FAULT_CODE and FAULT_INFO are saved, one result
record is given, and the block goes to FAULTED or IDLE (60_exceptions.md R512, R513). The block has no saved pc, no vector
and no return from a fault: only reset leaves FAULTED (R510, R517). -/
def raiseReporting (k : FaultKind) (info resultInfo : Word) (data : List Byte) (s : State) : State :=
  (((s.setFaultRegs { code := k.code, info := info }).emit
    (resultWords k.code s.cmdOp 0 resultInfo data)).setPhase (phaseAfterFault k))

/-- `raise Fault(code, info)`: INFO = FAULT_INFO, RCODE = 0, LEN = 0 (30_encoding.md R126, 60_exceptions.md R512). -/
def raise (k : FaultKind) (info : Word) (s : State) : State := raiseReporting k info info [] s

/-- The answer to a record taken in FAULTED: the stored fault with the record's own opcode; nothing else changes
(60_exceptions.md R511, 47_context_commands.md R465). -/
def answerFaulted (opc : BitVec 4) (s : State) : State :=
  s.emit (resultWords s.faultRegs.code opc 0 s.faultRegs.info [])

/-- Every command's dispatch (47_context_commands.md R465, R466): in FAULTED the stored fault is answered; otherwise `CMD_OP`
takes the opcode and the command runs. -/
def accept (opc : BitVec 4) (body : State → Flow) (s : State) : Host.Outcome State Fault Refusal :=
  .next (if s.phase = .faulted then answerFaulted opc s else (body (s.setCmdOp opc)).state)

/-! ## Preconditions -/

/-- The connection guard (47_context_commands.md R462). -/
def requireConnected (s : State) : Flow :=
  if s.ctx.genValid then .go s else .ended (raise .invalidArgument infoNotConnected s)

/-- The length check against `P_MAX_PAYLOAD` (42_async_transaction.md R281, R282; 44_fcp.md R360). -/
def requireLength (n : Nat) (s : State) : Flow :=
  if s.params.maxPayload.toNat < n then .ended (raise .invalidArgument infoLengthTooLarge s) else .go s

/-! ## Submissions -/

/-- ENV's answer to the next submission: the first listed one; with none listed, a free value. -/
def submitAnswer (s : State) : SubmitAnswer :=
  match s.submitAnswers with
  | a :: _ => a
  | [] => Config.freeSubmitAnswer s.subOut.length

/-- ENV's answer to the `k`-th submission from now, counted from 0: the listed one; with none listed, a free value. -/
def answerTo (s : State) (k : Nat) : SubmitAnswer :=
  match s.submitAnswers.drop k with
  | a :: _ => a
  | [] => Config.freeSubmitAnswer (s.subOut.length + k)

/-- ENV's answer to the next GET_INFO: the first listed one; with none listed, a free value. -/
def infoAnswer (s : State) : InfoAnswer :=
  match s.infoAnswers with
  | a :: _ => a
  | [] => Config.freeInfoAnswer s.subOut.length

/-- `Submit(…)`: the record goes to SUB_OUT; a refusal raises IoFailure(SUBMIT_REJECTED)
(00_scope.md R15, 40_event_stream.md R217). -/
def submit (sub : Submission) (s : State) : Flow :=
  match submitAnswer s with
  | .ok _ => .go (s.putSub sub)
  | .rejected => .ended (raise .ioFailure infoSubmitRejected (s.putSub sub))

/-- `SubmitPhy(d0, d1)`, stamped with `GEN` (40_event_stream.md R201). -/
def submitPhy (d0 d1 : Word) (s : State) : Flow := submit (.phy d0 d1 s.ctx.gen) s

/-- The payload of an async submission: none for the read tcodes 0x4 and 0x5, otherwise `REQ_PAYLOAD[0..REQ_LEN-1]`
(40_event_stream.md R202). -/
def requestPayload (r : Request) : List Byte :=
  if r.tcode = tcodeReadQuadlet ∨ r.tcode = tcodeReadBlock then [] else readBytes r.payload 0 r.len.toNat

/-- The async submission record of the request registers, broadcast 0 (30_encoding.md R146, 40_event_stream.md R202). -/
def asyncSubmission (r : Request) : Submission :=
  .async r.tcode r.offset r.len (requestPayload r) r.gen false

/-- `REQ_GEN <- GEN` (40_event_stream.md R202, 42_async_transaction.md R284). -/
def stampRequest (s : State) : State := s.setReq { s.req with gen := s.ctx.gen }

/-- `SUBMITS <- SUBMITS + 1`, modulo 2^32 (40_event_stream.md R202, 10_state.md R37). -/
def countSubmission (s : State) : State := s.setReq { s.req with submits := s.req.submits + 1 }

/-- `SubmitAsync()` (40_event_stream.md R202). -/
def submitAsync (s : State) : Flow :=
  (submit (asyncSubmission (stampRequest s).req) (stampRequest s)).andThen fun s => .go (countSubmission s)

/-- `SubmitResponse(handle, rcode)`, empty payload (40_event_stream.md R203, 30_encoding.md R147). -/
def submitResponse (handle : Nat) (rcode : BitVec 5) (s : State) : Flow := submit (.response handle rcode []) s

/-- `ArmPhyRx()` (40_event_stream.md R213). -/
def armPhyRx (s : State) : Flow :=
  if s.ctx.phyRxEn then .go s
  else (submit .enablePhyRx s).andThen fun s => .go (s.setCtx { s.ctx with phyRxEn := true })

/-- `Allocate(offset, length)` (40_event_stream.md R214). -/
def allocate (offset : Offset) (length : BitVec 16) (s : State) : Flow := submit (.allocate offset length) s

/-- `InitiateReset(kind)` (40_event_stream.md R215). -/
def initiateReset (kind : BitVec 4) (s : State) : Flow := submit (.busReset kind) s

/-! ## Polls -/

/-- `P_MIN_LEN(type)`; none for a type outside the five kinds (40_event_stream.md R204). -/
def minTypedLen (p : Params) (type : Word) : Option Nat :=
  if type = typeBusReset then some p.minLenBusReset
  else if type = typeResponse then some p.minLenResponse
  else if type = typeRequest then some p.minLenRequest
  else if type = typeRequest2 then some p.minLenRequest2
  else if type = typeSent then some p.minLenSent
  else if type = typeReceived then some p.minLenReceived
  else none

/-- A record of a known type too short for its typed fields (40_event_stream.md R208). -/
def typedTooShort (p : Params) (r : EventRecord) : Bool :=
  match minTypedLen p r.type with
  | some n => decide (r.len < n)
  | none => false

/-- `OnBusReset(ev)`: the cached generation and node numbers follow every valid BUS_RESET record, in every phase
(40_event_stream.md R210). -/
def onBusReset (e : Event) (s : State) : State :=
  match e with
  | .busReset g root loc => s.setCtx { s.ctx with gen := g, localNode := loc, rootNode := root }
  | .sent _ _ => s
  | .phyReceived _ => s
  | .asyncResponse _ _ _ _ => s
  | .asyncRequest _ _ _ _ _ => s
  | .other => s

/-- What one poll gives the phase. -/
inductive Poll where
  /-- The poll itself ended the command by a fault. -/
  | ended (s : State)
  /-- TIMEOUT. -/
  | timeout (s : State)
  /-- A validated event. -/
  | event (e : Event) (s : State)
deriving DecidableEq, Repr

/-- The checks on a delivered record, in the order of 40_event_stream.md R219: common length, typed length, then the
bus-reset update (R204, R207, R208, R210). -/
def validateEvent (r : EventRecord) (s : State) : Poll :=
  if r.len < s.params.minEventLen then .ended (raise .protocolCorruption infoShortRead s)
  else if typedTooShort s.params r then .ended (raise .protocolCorruption infoShortTypedRecord s)
  else .event (decodeEvent r) (onBusReset (decodeEvent r) s)

/-- What ENV gives at the next poll: the first listed answer; with none listed, a free value, so that no list's end ends a
wait (70_reset_and_hazards.md R609). -/
def pollAnswer (s : State) : PollAnswer :=
  match s.evtIn with
  | a :: _ => a
  | [] => Config.freePollAnswer s.polls

/-- `NextEvent(T)` (40_event_stream.md R204): takes exactly one answer of ENV, which chooses TIMEOUT or an event at every
poll (R220). -/
def nextEvent (s : State) : Poll :=
  match pollAnswer s with
  | .timeout => .timeout s.takePoll
  | .readFailed => .ended (raise .ioFailure infoReadFailed s.takePoll)
  | .event r => validateEvent r s.takePoll

/-- The phase code a ProtocolTimeout reports in FAULT_INFO (60_exceptions.md R500, R502; the values of 10_state.md R33). -/
def phaseCode (p : Phase) : Word :=
  match p with
  | .idle => 0
  | .phyWait => 1
  | .asyncWait => 2
  | .fcpWait => 3
  | .scanWait => 4
  | .reserved5 => 5
  | .reserved6 => 6
  | .faulted => 7

/-- The poll window `T` of a phase in ms, none where the block does not poll (10_state.md R36, 60_exceptions.md R519). The
model is untimed (40_event_stream.md R220): `nextEvent` does not depend on it. -/
def pollWindow (p : Params) (ph : Phase) : Option Nat :=
  match ph with
  | .idle => none
  | .phyWait => some p.tPhyPoll
  | .asyncWait => some p.tPoll
  | .fcpWait => some p.tPoll
  | .scanWait => some p.tPhyPoll
  | .reserved5 => none
  | .reserved6 => none
  | .faulted => none

/-- The time a round-trip tick count stands for, in picoseconds: the raw count in units of `P_TICK_UNIT` (00_scope.md R10,
60_exceptions.md R520). The block copies the raw count; no rule reads the time. -/
def roundTripTime (p : Params) (ticks : Word) : Nat := ticks.toNat * p.tickUnit

/-! ## Taking a command record -/

/-- Take the record at the head of CMD_IN, whole and at its full length (30_encoding.md R120, R125); none while no whole
record is there. -/
def takeRecord (s : State) : Option (Decoded × State) :=
  match decode s.cmdIn with
  | some (d, rest) => some (d, s.setCmdIn rest)
  | none => none

end Sys2Proof.Machine
end

