-- ==== Sys2Proof/Machine/Flags.lean ====
section
/-! DEFINITION. The transaction flags of 10_state.md R35 and how events set and clear them. The block has no condition codes
(R35): these single bits are all the flags there are. -/

namespace Sys2Proof.Machine

/-- The flags at the start of a PHY transaction (41_phy_transaction.md R241). -/
def flagsAtPhyStart (mask : Word) (f : Flags) : Flags :=
  { f with awaitSent := true, awaitResp := mask != 0, rttValid := false }

/-- The flags after a good Sent event (41_phy_transaction.md R243). -/
def flagsAfterSent (f : Flags) : Flags := { f with awaitSent := false, rttValid := true }

/-- The flags after the final response word (41_phy_transaction.md R245, R246). -/
def flagsAfterResponse (f : Flags) : Flags := { f with awaitResp := false }

/-- Both PHY signals are in (41_phy_transaction.md R250). -/
def phyDone (f : Flags) : Bool := !f.awaitSent && !f.awaitResp

/-- The flags at the start of SEND_FCP (44_fcp.md R360). -/
def flagsAtFcpStart (f : Flags) : Flags := { f with fcpAckDone := false, fcpReqDone := false }

/-- The flags after the FCP write's COMPLETE response (44_fcp.md R363). -/
def flagsAfterFcpAck (f : Flags) : Flags := { f with fcpAckDone := true }

/-- The flags after the peer's FCP reply (44_fcp.md R364). -/
def flagsAfterFcpReply (f : Flags) : Flags := { f with fcpReqDone := true }

/-- Both FCP signals are in (44_fcp.md R370). -/
def fcpDone (f : Flags) : Bool := f.fcpAckDone && f.fcpReqDone

/-- INFO of a SEND_PHY result: `[1:0]` = CHAIN_LEN, `[8]` = RTT_VALID (30_encoding.md R126). -/
def phyInfo (chainLen : BitVec 2) (f : Flags) : Word := place (BitVec.ofBool f.rttValid) 8 ||| place chainLen 0

/-- INFO of a SEND_FCP result: `[0]` = FCP_ACK_DONE, `[1]` = FCP_REQ_DONE (30_encoding.md R126). -/
def fcpInfo (f : Flags) : Word := place (BitVec.ofBool f.fcpReqDone) 1 ||| place (BitVec.ofBool f.fcpAckDone) 0

/-- `RX_MASK | (1 << r)` (45_remote_phy_regs.md R393). -/
def markReceived (mask : BitVec 8) (reg : Nat) : BitVec 8 := mask ||| (1#8 <<< reg)

/-- The scan is complete: `RX_MASK == 0xFC` (10_state.md R40, 45_remote_phy_regs.md R397). -/
def scanDone (mask : BitVec 8) : Bool := mask == 0xFC

end Sys2Proof.Machine
end

