-- ==== Sys2Proof/Machine/Operands.lean ====
section
/-! DEFINITION. The operand forms: tcode selection (R280), lock operand validation and serialisation (R321, R322), PHY
packet words (R130-R138), the response predicate (R36), Self-ID words and fields (R421-R428). -/

namespace Sys2Proof.Machine

/-! ## Async tcodes -/

/-- Quadlet-aligned, 4 bytes long (42_async_transaction.md R280, 20_memory.md R86). -/
def isQuadlet (offset : Offset) (len : BitVec 16) : Bool := len == 4 && offset.extractLsb' 0 2 == 0

/-- `SelectTcode(READ, offset, len)` (42_async_transaction.md R280). -/
def selectReadTcode (offset : Offset) (len : BitVec 16) : BitVec 5 :=
  if isQuadlet offset len then tcodeReadQuadlet else tcodeReadBlock

/-- `SelectTcode(WRITE, offset, len)` (42_async_transaction.md R280). -/
def selectWriteTcode (offset : Offset) (len : BitVec 16) : BitVec 5 :=
  if isQuadlet offset len then tcodeWriteQuadlet else tcodeWriteBlock

/-! ## Lock operands -/

/-- The fault `EncodeLock` raises for a pair of operand widths, if any: the checks of 43_lock.md R321 in the order
written there. -/
def lockWidthFault (k : LockKind) (w1 w2 : Nat) : Option Word :=
  if oneOperand k ∧ w2 ≠ 0 then some infoArity
  else if ¬ oneOperand k ∧ w2 = 0 then some infoArity
  else if ¬ (w1 = 4 ∨ w1 = 8) then some infoWidth
  else if ¬ oneOperand k ∧ ¬ (w2 = 4 ∨ w2 = 8) then some infoWidth
  else if ¬ oneOperand k ∧ w2 ≠ w1 then some infoMismatch
  else none

/-- `Serialise`: operand1 then operand2, each as the big-endian bytes the record carries (43_lock.md R322). -/
def serialiseLock (op1 op2 : List Byte) : List Byte := op1 ++ op2

/-- The validation half of `EncodeLock` (43_lock.md R321). -/
def requireLockOperands (k : LockKind) (op1 op2 : List Byte) (s : State) : Flow :=
  match lockWidthFault k op1.length op2.length with
  | some info => .ended (raise .invalidOperandWidth info s)
  | none => .go s

/-! ## PHY packet words -/

/-- A PHY packet's second word where the packet is symmetric: `d1 = ~d0` (30_encoding.md R130). -/
def complementWord (d0 : Word) : Word := ~~~d0

/-- A phy id in bits 29:24 (30_encoding.md R133). -/
def phyIdBits (phy : BitVec 6) : Word := place phy 24

/-- The paged remote-access packet of page 1, port 0 (30_encoding.md R135, 45_remote_phy_regs.md R392). -/
def scanRequestWord (phy : BitVec 6) (reg : Nat) : Word :=
  phyIdBits phy ||| 0x00148000#32 ||| (BitVec.ofNat 32 reg <<< 8)

/-- The scan's `RESP_MASK` (45_remote_phy_regs.md R391). -/
def scanMask : Word := 0xFFFFF800

/-- The scan's `RESP_BITS` (45_remote_phy_regs.md R391). -/
def scanBits (phy : BitVec 6) : Word := phyIdBits phy ||| 0x001C8000

/-- The general paged remote-access packet (30_encoding.md R135). -/
def remoteAccessWord (phy : BitVec 6) (page : BitVec 3) (port : BitVec 4) (reg : BitVec 3) : Word :=
  place phy 24 ||| place 0x5#4 18 ||| place page 15 ||| place port 11 ||| place reg 8

/-- The general paged remote-reply packet (30_encoding.md R136). -/
def remoteReplyWord (phy : BitVec 6) (page : BitVec 3) (port : BitVec 4) (reg : BitVec 3) (data : Byte) : Word :=
  place phy 24 ||| place 0x7#4 18 ||| place page 15 ||| place port 11 ||| place reg 8 ||| place data 0

/-- The configuration packet (30_encoding.md R132). -/
def configWord (root : BitVec 6) (forceRoot gapValid : Bool) (gap : BitVec 6) : Word :=
  place root 24 ||| place (BitVec.ofBool forceRoot) 23 ||| place (BitVec.ofBool gapValid) 22 ||| place gap 16

/-- The ping packet (30_encoding.md R134). -/
def pingWord (phy : BitVec 6) : Word := phyIdBits phy

/-- The link-on packet (30_encoding.md R138). -/
def linkOnWord (phy : BitVec 6) : Word := place 0b01#2 30 ||| place phy 24

/-- The response predicate `(w & RESP_MASK) == RESP_BITS` (10_state.md R36). -/
def matchesPending (p : PendingMatch) (w : Word) : Bool := (w &&& p.mask) == p.bits

/-- The Self-ID pattern: top two bits 0b10 (41_phy_transaction.md R245, 30_encoding.md R131). -/
def isSelfId (w : Word) : Bool := field w 30 2 == 0b10

/-- The `m` bit, more packets follow (30_encoding.md R139). -/
def moreFollows (w : Word) : Bool := field w 0 1 == 1

/-! ## Self-ID fields -/

/-- `FIELD_MASK_F0` (46_self_id.md R426). -/
def fieldMaskF0 : Word := 0x3F7FCF02

/-- Word `i` of a chain. -/
def chainWord (ws : List Word) (i : Nat) : Word := ws.getD i 0

/-- `ChainLength(n, W)` (46_self_id.md R421), `n` at most 3. -/
def chainLength (n : Nat) (ws : List Word) : Nat :=
  if 1 < n ∧ moreFollows (chainWord ws 0) then
    if 2 < n ∧ moreFollows (chainWord ws 1) then 3 else 2
  else 1

/-- Port `p` of a fields record: `F1[31−2p : 30−2p]` (46_self_id.md R426). -/
def portField (f1 : Word) (p : Nat) : BitVec 2 := field f1 (30 - 2 * p) 2

/-- Port state `p` of a `k`-word chain: ports 0-2 in word 0, 3-10 in word 1, 11-15 in word 2; a port the chain does not
carry is 0 (46_self_id.md R423). -/
def chainPort (k : Nat) (ws : List Word) (p : Nat) : BitVec 2 :=
  if p < 3 then field (chainWord ws 0) (6 - 2 * p) 2
  else if p < 11 then if 2 ≤ k then field (chainWord ws 1) (16 - 2 * (p - 3)) 2 else 0
  else if 3 ≤ k then field (chainWord ws 2) (16 - 2 * (p - 11)) 2 else 0

/-- `Ports(k, W)`: the sixteen port states as `F1` (46_self_id.md R423). -/
def chainPorts (k : Nat) (ws : List Word) : Word :=
  (List.range 16).foldl (fun acc p => acc ||| place (chainPort k ws p) (30 - 2 * p)) 0

/-- `F0` of a chain (46_self_id.md R422). -/
def nodeFields (ws : List Word) : Word := chainWord ws 0 &&& fieldMaskF0

/-- `CarriedPorts(n)` (46_self_id.md R428). -/
def carriedPorts (n : Nat) : Word :=
  match n with
  | 1 => 0xFC000000
  | 2 => 0xFFFFFC00
  | _ => 0xFFFFFFFF

/-- The phy id of a fields record, in bits 29:24 as every chain word carries it (46_self_id.md R427). -/
def fieldsPhy (f0 : Word) : Word := phyIdBits (field f0 24 6)

/-- Packet #0 of an `n`-word chain (46_self_id.md R427). -/
def selfIdWord0 (n : Nat) (f0 f1 : Word) : Word :=
  0x80000000 ||| f0 ||| place (portField f1 0) 6 ||| place (portField f1 1) 4 ||| place (portField f1 2) 2
    ||| (if 1 < n then 1 else 0)

/-- Packet #1 of an `n`-word chain (46_self_id.md R427). -/
def selfIdWord1 (n : Nat) (f0 f1 : Word) : Word :=
  (List.range 8).foldl (fun acc j => acc ||| place (portField f1 (3 + j)) (16 - 2 * j))
    (0x80000000 ||| fieldsPhy f0 ||| 0x00800000 ||| (if 2 < n then 1 else 0))

/-- Packet #2 (46_self_id.md R427). -/
def selfIdWord2 (f0 f1 : Word) : Word :=
  (List.range 5).foldl (fun acc j => acc ||| place (portField f1 (11 + j)) (16 - 2 * j))
    (0x80000000 ||| fieldsPhy f0 ||| 0x00800000 ||| 0x00100000)

/-- The `n` words of a chain (46_self_id.md R427). -/
def selfIdChain (n : Nat) (f0 f1 : Word) : List Word :=
  [selfIdWord0 n f0 f1, selfIdWord1 n f0 f1, selfIdWord2 f0 f1].take n

end Sys2Proof.Machine
end

