-- ==== Sys2Proof/Machine/Async.lean ====
section
/-! DEFINITION. ASYNC_READ, ASYNC_WRITE and the async engine with its generation retry (42_async_transaction.md). -/

namespace Sys2Proof.Machine

/-- `REQ_TCODE`, `REQ_OFFSET`, `REQ_LEN` of a read; a read leaves `REQ_PAYLOAD` alone (42_async_transaction.md R281). -/
def loadReadRequest (tcode : BitVec 5) (offset : Offset) (len : BitVec 16) (s : State) : State :=
  s.setReq { s.req with tcode := tcode, offset := offset, len := len }

/-- The request registers of a write or a lock; `REQ_PAYLOAD[0..n-1] <- B` (42_async_transaction.md R282). -/
def loadRequest (tcode : BitVec 5) (offset : Offset) (payload : List Byte) (s : State) : State :=
  s.setReq { s.req with
    tcode := tcode, offset := offset, len := BitVec.ofNat 16 payload.length,
    payload := writeBytes s.req.payload 0 payload }

/-- `SUBMITS <- 0` (42_async_transaction.md R283). -/
def clearSubmits (s : State) : State := s.setReq { s.req with submits := 0 }

/-- `SendAsync()` up to ASYNC_WAIT (42_async_transaction.md R283). -/
def sendAsync (s : State) : Flow :=
  (submitAsync (clearSubmits s)).andThen fun s => .go (s.setPhase .asyncWait)

/-- `RESP_RCODE <- rc; RESP_LEN <- n; RESP_DATA[0..n-1] <- P` (42_async_transaction.md R283). -/
def storeResponse (rc : BitVec 5) (n : BitVec 16) (p : List Byte) (s : State) : State :=
  s.setResp { rcode := rc, len := n, data := writeBytes s.resp.data 0 p }

/-- The end of an async command: RCODE, INFO = SUBMITS, `RESP_DATA[0..RESP_LEN-1]` (30_encoding.md R126). -/
def finishAsync (status : BitVec 4) (s : State) : State :=
  finish status s.resp.rcode s.req.submits (readBytes s.resp.data 0 s.resp.len.toNat) s

/-- The retries are used up: `SUBMITS > P_MAX_GEN_RETRIES` (42_async_transaction.md R290). -/
def retriesUsedUp (p : Params) (submits : Word) : Bool :=
  match p.maxGenRetries with
  | none => false
  | some n => decide (n < submits.toNat)

/-- An AsyncResponse in ASYNC_WAIT: resubmit on GENERATION, otherwise end (42_async_transaction.md R285, R286, R290). -/
def onAsyncResponse (rc : BitVec 5) (n : BitVec 16) (p : List Byte) (s : State) : Flow :=
  if rc = rcodeGeneration then
    if retriesUsedUp s.params s.req.submits then .ended (finishAsync statusRemoteError (storeResponse rc n p s))
    else submitAsync s
  else
    .ended (finishAsync (if rc = rcodeComplete then statusOk else statusRemoteError) (storeResponse rc n p s))

/-- What an event does in ASYNC_WAIT (42_async_transaction.md R283, R287, R288). -/
def onAsyncEvent (e : Event) (s : State) : Flow :=
  match e with
  | .asyncResponse rc n p _ => onAsyncResponse rc n p s
  | .busReset _ _ _ => .go s
  | .asyncRequest _ _ _ _ _ => .go s
  | .sent _ _ => .go s
  | .phyReceived _ => .go s
  | .other => .go s

/-- One poll of ASYNC_WAIT (42_async_transaction.md R283; R289 for TIMEOUT). -/
def pollAsync (s : State) : State :=
  match nextEvent s with
  | .ended s => s
  | .timeout s => raise .protocolTimeout (phaseCode .asyncWait) s
  | .event e s => (onAsyncEvent e s).state

/-- ASYNC_READ (42_async_transaction.md R281). -/
def execAsyncRead (offset : Offset) (len : BitVec 16) (s : State) : Host.Outcome State Fault Refusal :=
  accept 0x3 (fun s =>
    (requireConnected s).andThen fun s =>
    (requireLength len.toNat s).andThen fun s =>
    sendAsync (loadReadRequest (selectReadTcode offset len) offset len s)) s

/-- ASYNC_WRITE (42_async_transaction.md R282). -/
def execAsyncWrite (offset : Offset) (payload : List Byte) (s : State) : Host.Outcome State Fault Refusal :=
  accept 0x4 (fun s =>
    (requireConnected s).andThen fun s =>
    (requireLength payload.length s).andThen fun s =>
    sendAsync (loadRequest (selectWriteTcode offset (BitVec.ofNat 16 payload.length)) offset payload s)) s

end Sys2Proof.Machine
end

