-- ==== Sys2Proof/Machine/Lock.lean ====
section
/-! DEFINITION. ENCODE_LOCK and ASYNC_LOCK, six kinds each (43_lock.md). -/

namespace Sys2Proof.Machine

/-- ENCODE_LOCK of a kind: validate, then give the serialised operands back (43_lock.md R320). -/
def encodeLockOf (k : LockKind) (op1 op2 : List Byte) (s : State) : Flow :=
  (requireLockOperands k op1 op2 s).andThen fun s =>
  .ended (finish statusOk 0 0 (serialiseLock op1 op2) s)

/-- ASYNC_LOCK of a kind: validate before any submission, then send with the lock tcode; the offset is not checked
(43_lock.md R323). -/
def asyncLockOf (k : LockKind) (offset : Offset) (op1 op2 : List Byte) (s : State) : Flow :=
  (requireConnected s).andThen fun s =>
  (requireLockOperands k op1 op2 s).andThen fun s =>
  sendAsync (loadRequest (lockTcode k) offset (serialiseLock op1 op2) s)

/-- ASYNC_LOCK.MASK_SWAP (43_lock.md R323, R324). -/
def execAsyncLockMaskSwap (offset : Offset) (op1 op2 : List Byte) (s : State) : Host.Outcome State Fault Refusal :=
  accept 0x5 (asyncLockOf .maskSwap offset op1 op2) s

/-- ASYNC_LOCK.COMPARE_SWAP (43_lock.md R323, R325). -/
def execAsyncLockCompareSwap (offset : Offset) (op1 op2 : List Byte) (s : State) : Host.Outcome State Fault Refusal :=
  accept 0x5 (asyncLockOf .compareSwap offset op1 op2) s

/-- ASYNC_LOCK.FETCH_ADD (43_lock.md R323, R326). -/
def execAsyncLockFetchAdd (offset : Offset) (op1 op2 : List Byte) (s : State) : Host.Outcome State Fault Refusal :=
  accept 0x5 (asyncLockOf .fetchAdd offset op1 op2) s

/-- ASYNC_LOCK.LITTLE_ADD (43_lock.md R323, R327). -/
def execAsyncLockLittleAdd (offset : Offset) (op1 op2 : List Byte) (s : State) : Host.Outcome State Fault Refusal :=
  accept 0x5 (asyncLockOf .littleAdd offset op1 op2) s

/-- ASYNC_LOCK.BOUNDED_ADD (43_lock.md R323, R328). -/
def execAsyncLockBoundedAdd (offset : Offset) (op1 op2 : List Byte) (s : State) : Host.Outcome State Fault Refusal :=
  accept 0x5 (asyncLockOf .boundedAdd offset op1 op2) s

/-- ASYNC_LOCK.WRAP_ADD (43_lock.md R323, R329). -/
def execAsyncLockWrapAdd (offset : Offset) (op1 op2 : List Byte) (s : State) : Host.Outcome State Fault Refusal :=
  accept 0x5 (asyncLockOf .wrapAdd offset op1 op2) s

/-- ENCODE_LOCK.MASK_SWAP (43_lock.md R320, R324). -/
def execEncodeLockMaskSwap (op1 op2 : List Byte) (s : State) : Host.Outcome State Fault Refusal :=
  accept 0x6 (encodeLockOf .maskSwap op1 op2) s

/-- ENCODE_LOCK.COMPARE_SWAP (43_lock.md R320, R325). -/
def execEncodeLockCompareSwap (op1 op2 : List Byte) (s : State) : Host.Outcome State Fault Refusal :=
  accept 0x6 (encodeLockOf .compareSwap op1 op2) s

/-- ENCODE_LOCK.FETCH_ADD (43_lock.md R320, R326). -/
def execEncodeLockFetchAdd (op1 op2 : List Byte) (s : State) : Host.Outcome State Fault Refusal :=
  accept 0x6 (encodeLockOf .fetchAdd op1 op2) s

/-- ENCODE_LOCK.LITTLE_ADD (43_lock.md R320, R327). -/
def execEncodeLockLittleAdd (op1 op2 : List Byte) (s : State) : Host.Outcome State Fault Refusal :=
  accept 0x6 (encodeLockOf .littleAdd op1 op2) s

/-- ENCODE_LOCK.BOUNDED_ADD (43_lock.md R320, R328). -/
def execEncodeLockBoundedAdd (op1 op2 : List Byte) (s : State) : Host.Outcome State Fault Refusal :=
  accept 0x6 (encodeLockOf .boundedAdd op1 op2) s

/-- ENCODE_LOCK.WRAP_ADD (43_lock.md R320, R329). -/
def execEncodeLockWrapAdd (op1 op2 : List Byte) (s : State) : Host.Outcome State Fault Refusal :=
  accept 0x6 (encodeLockOf .wrapAdd op1 op2) s

/-- The answer to an ASYNC_LOCK record whose `SUB` is no lock kind: the connection guard, then BAD_LOCK_OP
(43_lock.md R323, R330; 47_context_commands.md R466). -/
def rejectAsyncLock (s : State) : Flow :=
  (requireConnected s).andThen fun s => .ended (raise .invalidArgument infoBadLockOp s)

/-- The answer to an ENCODE_LOCK record whose `SUB` is no lock kind (43_lock.md R321, R330). -/
def rejectEncodeLock (s : State) : Flow := .ended (raise .invalidArgument infoBadLockOp s)

end Sys2Proof.Machine
end

