-- ==== Sys2Proof/Machine/ContextCmds.lean ====
section
/-! DEFINITION. CONNECT, BUS_RESET_REQ, the illegal opcodes, and the answer to a record that is no row of the opcode table
(47_context_commands.md). -/

namespace Sys2Proof.Machine

/-- The context registers CONNECT fills from `get_info`; `PHY_RX_EN` and the FCP range stay (47_context_commands.md R460). -/
def loadContext (r : InfoRecord) (s : State) : State :=
  s.setCtx { s.ctx with
    cardIndex := r.cardIndex, gen := r.generation, localNode := r.localNode, rootNode := r.rootNode, genValid := true }

/-- CONNECT's result data (30_encoding.md R126). -/
def contextData (c : Context) : List Byte :=
  bytesOf [c.gen, c.localNode.setWidth 32, c.rootNode.setWidth 32, c.cardIndex]

/-- `finish(OK, GEN, LOCAL_NODE, ROOT_NODE, CARD_INDEX)` (47_context_commands.md R460). -/
def finishConnect (s : State) : State := finish statusOk 0 0 (contextData s.ctx) s

/-- CONNECT after its `get_info` on an open handle (47_context_commands.md R460, R461; 40_event_stream.md R216). -/
def onInfoAnswer (a : InfoAnswer) (s : State) : State :=
  match a with
  | .ok r => finishConnect (loadContext r s)
  | .rejected => raise .ioFailure infoInfoFailed s

/-- `GetInfo()` and what CONNECT does with its answer: on a handle never opened ENV answers `no_device`, so every CONNECT of
the block's life raises IoFailure(OPEN_FAILED) (40_event_stream.md R216, 47_context_commands.md R461). -/
def onGetInfo (handle : Option Nat) (a : InfoAnswer) (s : State) : State :=
  match handle with
  | none => raise .ioFailure infoOpenFailed s
  | some _ => onInfoAnswer a s

/-- CONNECT (47_context_commands.md R460). -/
def connectDevice (s : State) : Flow := .ended (onGetInfo s.params.deviceHandle (infoAnswer s) s.putGetInfo)

/-- BUS_RESET_REQ of a kind: guard, submission, no wait; `GEN` stays (47_context_commands.md R463). -/
def requestBusReset (kind : BitVec 4) (s : State) : Flow :=
  (requireConnected s).andThen fun s =>
  (initiateReset kind s).andThen fun s =>
  .ended (finish statusOk 0 0 [] s)

/-- An opcode 0xC to 0xF (47_context_commands.md R464). -/
def illegalOpcode (s : State) : Flow := .ended (raise .invalidArgument infoIllegalOpcode s)

/-- CONNECT (47_context_commands.md R460). -/
def execConnect (s : State) : Host.Outcome State Fault Refusal := accept 0x0 connectDevice s

/-- BUS_RESET_REQ.LONG (47_context_commands.md R463). -/
def execBusResetReqLong (s : State) : Host.Outcome State Fault Refusal := accept 0xB (requestBusReset resetLong) s

/-- BUS_RESET_REQ.SHORT (47_context_commands.md R463). -/
def execBusResetReqShort (s : State) : Host.Outcome State Fault Refusal := accept 0xB (requestBusReset resetShort) s

/-- ILLEGAL_C (47_context_commands.md R464). -/
def execIllegalC (s : State) : Host.Outcome State Fault Refusal := accept 0xC illegalOpcode s

/-- ILLEGAL_D (47_context_commands.md R464). -/
def execIllegalD (s : State) : Host.Outcome State Fault Refusal := accept 0xD illegalOpcode s

/-- ILLEGAL_E (47_context_commands.md R464). -/
def execIllegalE (s : State) : Host.Outcome State Fault Refusal := accept 0xE illegalOpcode s

/-- ILLEGAL_F (47_context_commands.md R464). -/
def execIllegalF (s : State) : Host.Outcome State Fault Refusal := accept 0xF illegalOpcode s

/-- A reserved bit is set (47_context_commands.md R466). -/
def rejectReservedBits (s : State) : Flow := .ended (raise .invalidArgument infoReservedBits s)

/-- A BUS_RESET_REQ record of another kind: the connection guard, then BAD_RESET_KIND (47_context_commands.md R463). -/
def rejectResetKind (s : State) : Flow :=
  (requireConnected s).andThen fun s => .ended (raise .invalidArgument infoBadResetKind s)

/-- The answer to a whole record that is no row of the opcode table (30_encoding.md R151, 47_context_commands.md R466). -/
def execReject (r : Reject) (s : State) : Host.Outcome State Fault Refusal :=
  match r with
  | .reservedBits opc => accept opc rejectReservedBits s
  | .badAsyncLockOp => accept 0x5 rejectAsyncLock s
  | .badEncodeLockOp => accept 0x6 rejectEncodeLock s
  | .badResetKind => accept 0xB rejectResetKind s

end Sys2Proof.Machine
end

