-- ==== Sys2Proof/Machine/Fcp.lean ====
section
/-! DEFINITION. SEND_FCP, the two-sided exchange (44_fcp.md). -/

namespace Sys2Proof.Machine

/-- The register clears at the start of SEND_FCP (44_fcp.md R360). -/
def fcpStart (s : State) : State :=
  (s.setFlags (flagsAtFcpStart s.flags)).setFcp { s.fcp with ackRcode := 0, replyLen := 0 }

/-- The range registers after an allocation (44_fcp.md R361). -/
def recordFcpRange (s : State) : State :=
  s.setCtx { s.ctx with
    fcpRangeBase := s.params.fcpRespAddr, fcpRangeLen := s.params.fcpRespLen, fcpRangeValid := true }

/-- `FcpAllocate()` (44_fcp.md R361). -/
def fcpAllocate (s : State) : Flow :=
  if s.ctx.fcpRangeValid then .go s
  else (allocate s.params.fcpRespAddr s.params.fcpRespLen s).andThen fun s => .go (recordFcpRange s)

/-- The command write's request registers (44_fcp.md R360, R362). -/
def loadFcpWrite (payload : List Byte) (s : State) : State :=
  loadRequest (selectWriteTcode s.params.fcpCmdAddr (BitVec.ofNat 16 payload.length)) s.params.fcpCmdAddr payload s

/-- SEND_FCP up to FCP_WAIT (44_fcp.md R360). -/
def sendFcpCommand (payload : List Byte) (s : State) : Flow :=
  (requireConnected s).andThen fun s =>
  (requireLength payload.length s).andThen fun s =>
  (fcpAllocate (fcpStart s)).andThen fun s =>
  (submitAsync (clearSubmits (loadFcpWrite payload s))).andThen fun s =>
  .go (s.setPhase .fcpWait)

/-- The end of SEND_FCP: RCODE, the two flags, `FCP_REPLY[0..FCP_REPLY_LEN-1]` (30_encoding.md R126). -/
def finishFcp (status : BitVec 4) (s : State) : State :=
  finish status s.fcp.ackRcode (fcpInfo s.flags) (readBytes s.fcp.reply 0 s.fcp.replyLen.toNat) s

/-- `FCP_ACK_RCODE <- rc` (44_fcp.md R363). -/
def storeFcpAck (rc : BitVec 5) (s : State) : State := s.setFcp { s.fcp with ackRcode := rc }

/-- `OnFcpResponse(rc)`: a second response is discarded; a non-COMPLETE one ends the exchange (44_fcp.md R363). -/
def onFcpResponse (rc : BitVec 5) (s : State) : Flow :=
  if s.flags.fcpAckDone then .go s
  else if rc = rcodeComplete then .go ((storeFcpAck rc s).setFlags (flagsAfterFcpAck s.flags))
  else .ended (finishFcp statusRemoteError (storeFcpAck rc s))

/-- The offset lies in `[FCP_RANGE_BASE, FCP_RANGE_BASE + FCP_RANGE_LEN)` (44_fcp.md R364, R365), with no wrap of the
sum (20_memory.md R81). -/
def inFcpRange (c : Context) (offset : Offset) : Bool :=
  decide (c.fcpRangeBase.toNat ≤ offset.toNat)
  && decide (offset.toNat < c.fcpRangeBase.toNat + c.fcpRangeLen.toNat)

/-- The first reply's payload is kept (44_fcp.md R364, R366). -/
def storeFcpReply (m : BitVec 16) (p : List Byte) (s : State) : State :=
  (s.setFcp { s.fcp with reply := writeBytes s.fcp.reply 0 p, replyLen := m }).setFlags (flagsAfterFcpReply s.flags)

/-- `OnFcpRequest(h, off, m, P)`: every in-range request is answered COMPLETE before its payload is looked at
(44_fcp.md R364-R366). -/
def onFcpRequest (handle : Nat) (offset : Offset) (m : BitVec 16) (p : List Byte) (s : State) : Flow :=
  if inFcpRange s.ctx offset then
    (submitResponse handle rcodeComplete s).andThen fun s =>
    .go (if s.flags.fcpReqDone then s else storeFcpReply m p s)
  else .go s

/-- What an event does in FCP_WAIT (44_fcp.md R360, R367, R368). -/
def onFcpEvent (e : Event) (s : State) : Flow :=
  match e with
  | .asyncResponse rc _ _ _ => onFcpResponse rc s
  | .asyncRequest h _ off m p => onFcpRequest h off m p s
  | .busReset _ _ _ => .ended (raise .busReset s.ctx.gen s)
  | .sent _ _ => .go s
  | .phyReceived _ => .go s
  | .other => .go s

/-- The completion test after every event of FCP_WAIT (44_fcp.md R370). -/
def completeFcp (s : State) : State := if fcpDone s.flags then finishFcp statusOk s else s

/-- One poll of FCP_WAIT (44_fcp.md R360; R369 for TIMEOUT). -/
def pollFcp (s : State) : State :=
  match nextEvent s with
  | .ended s => s
  | .timeout s => raise .protocolTimeout (phaseCode .fcpWait) s
  | .event e s => ((onFcpEvent e s).andThen fun s => .go (completeFcp s)).state

/-- SEND_FCP (44_fcp.md R360). -/
def execSendFcp (payload : List Byte) (s : State) : Host.Outcome State Fault Refusal :=
  accept 0xA (sendFcpCommand payload) s

end Sys2Proof.Machine
end

