-- ==== Sys2Proof/Machine/Phy.lean ====
section
/-! DEFINITION. SEND_PHY and SEND_PHY_SYM (41_phy_transaction.md): the command up to its wait, and one poll of PHY_WAIT. -/

namespace Sys2Proof.Machine

/-- The register writes of `PhyStart` (41_phy_transaction.md R241). -/
def phyStart (mask bits : Word) (s : State) : State :=
  (((s.setPending { mask := mask, bits := bits }).setFlags (flagsAtPhyStart mask s.flags)).setChain
    { s.chain with len := 0 }).setPhyRes { s.phyRes with lastResp := 0 }

/-- PHY reception is armed before the send exactly when a response is expected (41_phy_transaction.md R241). -/
def armForResponse (mask : Word) (s : State) : Flow := if mask = 0 then .go s else armPhyRx s

/-- SEND_PHY up to PHY_WAIT (41_phy_transaction.md R240, R242). -/
def sendPhyPacket (d0 d1 mask bits : Word) (s : State) : Flow :=
  (requireConnected s).andThen fun s =>
  (armForResponse mask (phyStart mask bits s)).andThen fun s =>
  (submitPhy d0 d1 s).andThen fun s =>
  .go (s.setPhase .phyWait)

/-- `CHAIN[CHAIN_LEN] <- w` (41_phy_transaction.md R245). There is no `CHAIN[3]`: at CHAIN_LEN = 3, which no rule reaches
while a response is awaited, no word is written (notes/assumptions/12.md). -/
def storeChainWord (c : Chain) (w : Word) : Chain :=
  match c.len.toNat with
  | 0 => { c with w0 := w }
  | 1 => { c with w1 := w }
  | 2 => { c with w2 := w }
  | _ => c

/-- `CHAIN[CHAIN_LEN] <- w; CHAIN_LEN <- CHAIN_LEN + 1` (41_phy_transaction.md R245). -/
def appendChain (c : Chain) (w : Word) : Chain := { storeChainWord c w with len := c.len + 1 }

/-- A matching Self-ID word: accumulate; stop at the first word with `m` = 0 or when the chain is full
(41_phy_transaction.md R245). -/
def acceptSelfId (w : Word) (s : State) : State :=
  ((s.setChain (appendChain s.chain w)).setPhyRes { s.phyRes with lastResp := w }).setFlags
    (if moreFollows w = false ∨ s.chain.len + 1 = 3 then flagsAfterResponse s.flags else s.flags)

/-- A matching word that is no Self-ID word: the final response (41_phy_transaction.md R246). -/
def acceptFinal (w : Word) (s : State) : State :=
  (s.setPhyRes { s.phyRes with lastResp := w }).setFlags (flagsAfterResponse s.flags)

/-- `OnPhyReceived(w)` (41_phy_transaction.md R244-R246). -/
def onPhyReceived (w : Word) (s : State) : State :=
  if s.flags.awaitResp ∧ matchesPending s.pending w then
    if isSelfId w then acceptSelfId w s else acceptFinal w s
  else s

/-- `OnPhySent(status, t)` (41_phy_transaction.md R243). -/
def onPhySent (status : BitVec 5) (ticks : Word) (s : State) : Flow :=
  if status = rcodeComplete then
    .go ((s.setPhyRes { s.phyRes with rtt := ticks }).setFlags (flagsAfterSent s.flags))
  else .ended (raise .ioFailure infoSendFailed s)

/-- What an event does in PHY_WAIT (41_phy_transaction.md R240, R247, R248). -/
def onPhyEvent (e : Event) (s : State) : Flow :=
  match e with
  | .sent status ticks => onPhySent status ticks s
  | .phyReceived w => .go (onPhyReceived w s)
  | .busReset _ _ _ => .ended (raise .busReset s.ctx.gen s)
  | .asyncResponse _ _ _ _ => .go s
  | .asyncRequest _ _ _ _ _ => .go s
  | .other => .go s

/-- The words `CHAIN[0..CHAIN_LEN-1]` (30_encoding.md R126). -/
def chainWords (c : Chain) : List Word := [c.w0, c.w1, c.w2].take c.len.toNat

/-- The data of a SEND_PHY result: LAST_RESP, RTT (0 when RTT_VALID = 0), the chain (30_encoding.md R126). -/
def phyData (s : State) : List Byte :=
  bytesOf (s.phyRes.lastResp :: (if s.flags.rttValid then s.phyRes.rtt else 0) :: chainWords s.chain)

/-- `finish(OK, LAST_RESP, RTT, CHAIN)` (41_phy_transaction.md R250). -/
def finishPhy (s : State) : State := finish statusOk 0 (phyInfo s.chain.len s.flags) (phyData s) s

/-- The completion test after every event of PHY_WAIT (41_phy_transaction.md R250). -/
def completePhy (s : State) : State := if phyDone s.flags then finishPhy s else s

/-- One poll of PHY_WAIT (41_phy_transaction.md R240; R249 for TIMEOUT). -/
def pollPhy (s : State) : State :=
  match nextEvent s with
  | .ended s => s
  | .timeout s => raise .protocolTimeout (phaseCode .phyWait) s
  | .event e s => ((onPhyEvent e s).andThen fun s => .go (completePhy s)).state

/-- SEND_PHY (41_phy_transaction.md R240): `d1` is sent as given (R253). -/
def execSendPhy (d0 d1 mask bits : Word) (s : State) : Host.Outcome State Fault Refusal :=
  accept 0x1 (sendPhyPacket d0 d1 mask bits) s

/-- SEND_PHY_SYM (41_phy_transaction.md R251): `d1 = ~q`. -/
def execSendPhySym (q mask bits : Word) (s : State) : Host.Outcome State Fault Refusal :=
  accept 0x2 (sendPhyPacket q (complementWord q) mask bits) s

end Sys2Proof.Machine
end

