-- ==== Sys2Proof/Machine/ScanRegs.lean ====
section
/-! DEFINITION. SCAN_PHY_REGS, the six-register remote scan (45_remote_phy_regs.md). -/

namespace Sys2Proof.Machine

/-- The registers at the start of a scan (45_remote_phy_regs.md R390, R391). -/
def scanStart (phy : BitVec 6) (s : State) : State :=
  (s.setScan { s.scan with phy := phy, rxMask := 0 }).setPending { mask := scanMask, bits := scanBits phy }

/-- Submit one access packet a register, in the order given (45_remote_phy_regs.md R392). -/
def submitScan (phy : BitVec 6) : List Nat → State → Flow
  | [], s => .go s
  | reg :: regs, s =>
    (submitPhy (scanRequestWord phy reg) (complementWord (scanRequestWord phy reg)) s).andThen (submitScan phy regs)

/-- SCAN_PHY_REGS up to SCAN_WAIT: arm, then registers 2 to 7, all before the first poll
(45_remote_phy_regs.md R390, R392). -/
def startScan (phy : BitVec 6) (s : State) : Flow :=
  (requireConnected s).andThen fun s =>
  (armPhyRx (scanStart phy s)).andThen fun s =>
  (submitScan phy [2, 3, 4, 5, 6, 7] s).andThen fun s =>
  .go (s.setPhase .scanWait)

/-- `PHY_REGS[r] <- v`, r from 2 to 7 (45_remote_phy_regs.md R393). -/
def setPhyReg (p : PhyRegs) (r : Nat) (v : Byte) : PhyRegs :=
  match r with
  | 2 => { p with r2 := v }
  | 3 => { p with r3 := v }
  | 4 => { p with r4 := v }
  | 5 => { p with r5 := v }
  | 6 => { p with r6 := v }
  | 7 => { p with r7 := v }
  | _ => p

/-- `PHY_REGS[r] <- w[7:0]; RX_MASK <- RX_MASK | (1 << r)` (45_remote_phy_regs.md R393). -/
def recordReply (c : Scan) (r : Nat) (v : Byte) : Scan :=
  { c with regs := setPhyReg c.regs r v, rxMask := markReceived c.rxMask r }

/-- `OnScanReply(w)` (45_remote_phy_regs.md R393). -/
def onScanReply (w : Word) (s : State) : State :=
  if matchesPending s.pending w ∧ 2 ≤ (field w 8 3).toNat then
    s.setScan (recordReply s.scan (field w 8 3).toNat (field w 0 8))
  else s

/-- What an event does in SCAN_WAIT (45_remote_phy_regs.md R390, R394, R395). -/
def onScanEvent (e : Event) (s : State) : Flow :=
  match e with
  | .phyReceived w => .go (onScanReply w s)
  | .sent status _ => if status = rcodeComplete then .go s else .ended (raise .ioFailure infoSendFailed s)
  | .busReset _ _ _ => .ended (raise .busReset s.ctx.gen s)
  | .asyncResponse _ _ _ _ => .go s
  | .asyncRequest _ _ _ _ _ => .go s
  | .other => .go s

/-- A register's byte in the result: 0 where it has not arrived (30_encoding.md R126, 45_remote_phy_regs.md R396). -/
def receivedByte (mask : BitVec 8) (r : Nat) (v : Byte) : Byte := if mask.getLsbD r then v else 0

/-- The six result bytes `PHY_REGS[2..7]` (30_encoding.md R126). -/
def scanData (c : Scan) : List Byte :=
  [receivedByte c.rxMask 2 c.regs.r2, receivedByte c.rxMask 3 c.regs.r3, receivedByte c.rxMask 4 c.regs.r4,
    receivedByte c.rxMask 5 c.regs.r5, receivedByte c.rxMask 6 c.regs.r6, receivedByte c.rxMask 7 c.regs.r7]

/-- INFO of a scan's result: `RX_MASK` (30_encoding.md R126). -/
def scanInfo (c : Scan) : Word := c.rxMask.setWidth 32

/-- `finish(OK, PHY_REGS[2..7])` (45_remote_phy_regs.md R397). -/
def finishScan (s : State) : State := finish statusOk 0 (scanInfo s.scan) (scanData s.scan) s

/-- The completion test after every event of SCAN_WAIT (45_remote_phy_regs.md R390, R397). -/
def completeScan (s : State) : State := if scanDone s.scan.rxMask then finishScan s else s

/-- `ScanTimeout()`: the one fault whose record carries data (45_remote_phy_regs.md R396). -/
def scanTimeout (s : State) : State :=
  raiseReporting .protocolTimeout (phaseCode .scanWait) (scanInfo s.scan) (scanData s.scan) s

/-- One poll of SCAN_WAIT (45_remote_phy_regs.md R390). -/
def pollScan (s : State) : State :=
  match nextEvent s with
  | .ended s => s
  | .timeout s => scanTimeout s
  | .event e s => ((onScanEvent e s).andThen fun s => .go (completeScan s)).state

/-- SCAN_PHY_REGS (45_remote_phy_regs.md R390). -/
def execScanPhyRegs (phy : BitVec 6) (s : State) : Host.Outcome State Fault Refusal :=
  accept 0x9 (startScan phy) s

end Sys2Proof.Machine
end

