-- ==== Sys2Proof/Machine/SelfId.lean ====
section
/-! DEFINITION. DECODE_SELF_ID and ENCODE_SELF_ID (46_self_id.md). -/

namespace Sys2Proof.Machine

/-- A chain has 1 to 3 words (46_self_id.md R420, R425, R427). -/
def requireChainCount (n : BitVec 16) (s : State) : Flow :=
  if 1 ≤ n.toNat ∧ n.toNat ≤ 3 then .go s else .ended (raise .invalidArgument infoBadChainLength s)

/-- DECODE_SELF_ID's result: INFO = words consumed, data F0, F1 (46_self_id.md R420, 30_encoding.md R126). The decoder
validates nothing else (R424). -/
def decodeChain (n : BitVec 16) (words : List Word) (s : State) : Flow :=
  (requireChainCount n s).andThen fun s =>
  .ended (finish statusOk 0 (BitVec.ofNat 32 (chainLength n.toNat words))
    (bytesOf [nodeFields words, chainPorts (chainLength n.toNat words) words]) s)

/-- ENCODE_SELF_ID refuses reserved `F0` bits and states of ports the chain cannot carry (46_self_id.md R427, R428). -/
def requireCarriedFields (n : Nat) (f0 f1 : Word) (s : State) : Flow :=
  if f0 &&& ~~~fieldMaskF0 = 0 ∧ f1 &&& ~~~carriedPorts n = 0 then .go s
  else .ended (raise .invalidArgument infoReservedBits s)

/-- ENCODE_SELF_ID: the `n` chain words (46_self_id.md R427). -/
def encodeChain (n : BitVec 16) (f0 f1 : Word) (s : State) : Flow :=
  (requireChainCount n s).andThen fun s =>
  (requireCarriedFields n.toNat f0 f1 s).andThen fun s =>
  .ended (finish statusOk 0 0 (bytesOf (selfIdChain n.toNat f0 f1)) s)

/-- DECODE_SELF_ID (46_self_id.md R420). -/
def execDecodeSelfId (n : BitVec 16) (words : List Word) (s : State) : Host.Outcome State Fault Refusal :=
  accept 0x7 (decodeChain n words) s

/-- ENCODE_SELF_ID (46_self_id.md R427). -/
def execEncodeSelfId (n : BitVec 16) (f0 f1 : Word) (s : State) : Host.Outcome State Fault Refusal :=
  accept 0x8 (encodeChain n f0 f1) s

end Sys2Proof.Machine
end

