-- ==== Sys2Proof/Machine/Dispatch.lean ====
section
/-! DEFINITION. One arm per instruction (47_context_commands.md R465). -/

namespace Sys2Proof.Machine

def exec (i : Instr) (s : State) : Host.Outcome State Fault Refusal :=
  match i with
  | .connect => Sys2Proof.Machine.execConnect s
  | .sendPhy d0 d1 mask bits => Sys2Proof.Machine.execSendPhy d0 d1 mask bits s
  | .sendPhySym q mask bits => Sys2Proof.Machine.execSendPhySym q mask bits s
  | .asyncRead offset len => Sys2Proof.Machine.execAsyncRead offset len s
  | .asyncWrite offset payload => Sys2Proof.Machine.execAsyncWrite offset payload s
  | .asyncLockMaskSwap offset op1 op2 => Sys2Proof.Machine.execAsyncLockMaskSwap offset op1 op2 s
  | .asyncLockCompareSwap offset op1 op2 => Sys2Proof.Machine.execAsyncLockCompareSwap offset op1 op2 s
  | .asyncLockFetchAdd offset op1 op2 => Sys2Proof.Machine.execAsyncLockFetchAdd offset op1 op2 s
  | .asyncLockLittleAdd offset op1 op2 => Sys2Proof.Machine.execAsyncLockLittleAdd offset op1 op2 s
  | .asyncLockBoundedAdd offset op1 op2 => Sys2Proof.Machine.execAsyncLockBoundedAdd offset op1 op2 s
  | .asyncLockWrapAdd offset op1 op2 => Sys2Proof.Machine.execAsyncLockWrapAdd offset op1 op2 s
  | .encodeLockMaskSwap op1 op2 => Sys2Proof.Machine.execEncodeLockMaskSwap op1 op2 s
  | .encodeLockCompareSwap op1 op2 => Sys2Proof.Machine.execEncodeLockCompareSwap op1 op2 s
  | .encodeLockFetchAdd op1 op2 => Sys2Proof.Machine.execEncodeLockFetchAdd op1 op2 s
  | .encodeLockLittleAdd op1 op2 => Sys2Proof.Machine.execEncodeLockLittleAdd op1 op2 s
  | .encodeLockBoundedAdd op1 op2 => Sys2Proof.Machine.execEncodeLockBoundedAdd op1 op2 s
  | .encodeLockWrapAdd op1 op2 => Sys2Proof.Machine.execEncodeLockWrapAdd op1 op2 s
  | .decodeSelfId n words => Sys2Proof.Machine.execDecodeSelfId n words s
  | .encodeSelfId n f0 f1 => Sys2Proof.Machine.execEncodeSelfId n f0 f1 s
  | .scanPhyRegs phy => Sys2Proof.Machine.execScanPhyRegs phy s
  | .sendFcp payload => Sys2Proof.Machine.execSendFcp payload s
  | .busResetReqLong => Sys2Proof.Machine.execBusResetReqLong s
  | .busResetReqShort => Sys2Proof.Machine.execBusResetReqShort s
  | .illegalC _ => Sys2Proof.Machine.execIllegalC s
  | .illegalD _ => Sys2Proof.Machine.execIllegalD s
  | .illegalE _ => Sys2Proof.Machine.execIllegalE s
  | .illegalF _ => Sys2Proof.Machine.execIllegalF s

end Sys2Proof.Machine
end

