-- ==== Sys2Proof/Machine/Accept.lean ====
section
/-! DEFINITION. Taking a command record in IDLE and FAULTED and running it (10_state.md R30, 47_context_commands.md R465). -/

namespace Sys2Proof.Machine

/-- Run the record the block has taken: an instruction by its meaning, any other record by its fault
(47_context_commands.md R465). -/
def runRecord (d : Decoded) (s : State) : Host.Outcome State Fault Refusal :=
  match d with
  | .instr i => exec i s
  | .reject r => execReject r s

/-- The step of IDLE and FAULTED: with no whole record on CMD_IN the block waits for the caller (10_state.md R30, R33). -/
def acceptStep (s : State) : Host.Outcome State Fault Refusal :=
  match takeRecord s with
  | some (d, s') => runRecord d s'
  | none => .next s

end Sys2Proof.Machine
end

