-- ==== Sys2Proof/Machine/Step.lean ====
section
/-! DEFINITION. One step of the block (10_state.md R30, R33; 47_context_commands.md R465): in IDLE and FAULTED it takes one
whole command record and runs it up to its end or its wait; in a wait phase it makes one poll. -/

namespace Sys2Proof.Machine

/-- One step. -/
def step (s : State) : Host.Outcome State Fault Refusal :=
  match s.phase with
  | .idle => acceptStep s
  | .phyWait => .next (pollPhy s)
  | .asyncWait => .next (pollAsync s)
  | .fcpWait => .next (pollFcp s)
  | .scanWait => .next (pollScan s)
  | .reserved5 => .fault .reservedPhase
  | .reserved6 => .fault .reservedPhase
  | .faulted => acceptStep s

/-- The record whose bits are `w` at the head of CMD_IN, and the block in IDLE, where it takes it
(notes/assumptions/6.md). -/
def State.withFetchWord (s : State) (nbits w : Nat) : State :=
  { s with cmdIn := tableWords nbits w ++ s.cmdIn, phase := .idle }

end Sys2Proof.Machine
end

