-- ==== Sys2Proof/Machine/Pseudo.lean ====
section
/-! DEFINITION. The pseudo-instructions of 30_encoding.md R153: other names for words of the table's commands. -/

namespace Sys2Proof.Machine

/-- `PING p` (30_encoding.md R153, 41_phy_transaction.md R252). -/
def pseudoPing (phy : BitVec 6) : Instr := .sendPhySym (pingWord phy) 0xFF000000 (0x80000000 ||| phyIdBits phy)

/-- `SEND_PHY_RAW d0, d1` (30_encoding.md R153, 41_phy_transaction.md R253). -/
def pseudoSendPhyRaw (d0 d1 : Word) : Instr := .sendPhy d0 d1 0 0

/-- `SEND_PHY_RAW d0, d1, mask, bits` (30_encoding.md R153). -/
def pseudoSendPhyRawMatch (d0 d1 mask bits : Word) : Instr := .sendPhy d0 d1 mask bits

/-- `READ_QUADLET off` (30_encoding.md R153). -/
def pseudoReadQuadlet (offset : Offset) : Instr := .asyncRead offset 4

/-- `WRITE_QUADLET off, v` (30_encoding.md R153). -/
def pseudoWriteQuadlet (offset : Offset) (v : Word) : Instr := .asyncWrite offset (wordBytes v)

/-- `CONFIG root, R, T, gap` (30_encoding.md R153). -/
def pseudoConfig (root : BitVec 6) (forceRoot gapValid : Bool) (gap : BitVec 6) : Instr :=
  .sendPhySym (configWord root forceRoot gapValid gap) 0 0

end Sys2Proof.Machine
end

