-- ==== Sys2Proof/Machine/Reset.lean ====
section
/-! DEFINITION. The reset applied from outside (70_reset_and_hazards.md R601, R602). It is no command and no step. -/

namespace Sys2Proof.Machine

/-- Reset of a running block: every register takes its reset value, whatever the phase was; nothing persists (R602); only the
implementation parameters, which are no registers (10_state.md R32), stay. -/
def applyReset (s : State) : State := { State.reset with params := s.params }

end Sys2Proof.Machine
end

