-- ==== Sys2Proof/Machine/Responder.lean ====
section
/-! DEFINITION. The remote responder of a lock, informative only: no step of the block runs it, and ENV may answer
otherwise (43_lock.md R324-R329, 00_scope.md R7). It is here because the test programs compute end states with it
(00_scope.md R15). -/

namespace Sys2Proof.Machine

/-- Bytes read as a big-endian number. -/
def beValue (bs : List Byte) : Nat := bs.foldl (fun acc b => acc * 256 + b.toNat) 0

/-- `n` bytes of a number, big-endian, modulo 256^n (00_scope.md R13). -/
def beBytes (n v : Nat) : List Byte := (List.range n).map fun i => BitVec.ofNat 8 (v >>> (8 * (n - 1 - i)))

/-- Bitwise choice of MaskSwap on bytes: `data | (old & ~arg)` (43_lock.md R324). -/
def maskSwapBytes : List Byte → List Byte → List Byte → List Byte
  | o :: old, a :: arg, d :: data => (d ||| (o &&& ~~~a)) :: maskSwapBytes old arg data
  | _, _, _ => []

/-- The sum modulo 2^(8w) of two big-endian operands (43_lock.md R326). -/
def addBytes (x y : List Byte) : List Byte := beBytes x.length (beValue x + beValue y)

/-- The bytes a lock leaves at its target, from the old bytes and the two serialised operands (43_lock.md R324-R329). A
one-operand kind's operand is `op1`. -/
def lockResult (k : LockKind) (old op1 op2 : List Byte) : List Byte :=
  match k with
  | .maskSwap => maskSwapBytes old op1 op2
  | .compareSwap => if old = op1 then op2 else old
  | .fetchAdd => addBytes old op1
  | .littleAdd => (addBytes old.reverse op1.reverse).reverse
  | .boundedAdd => if old = op1 then old else addBytes old op2
  | .wrapAdd => if old = op1 then op2 else addBytes old op2

/-- One lock transaction at a responder: `MemRead`, then `MemWrite`; the old bytes are the response
(43_lock.md R324-R329, R332). -/
def respondLock (k : LockKind) (offset : Offset) (op1 op2 : List Byte) (m : Memory) : Memory × List Byte :=
  let old := readBytes m offset.toNat op1.length
  (writeBytes m offset.toNat (lockResult k old op1 op2), old)

end Sys2Proof.Machine
end

