-- ==== Sys2Proof/Safety.lean ====
section
/-! DEFINITION. What holds of every state a run reaches: the invariant of the block, in the terms statements use. -/

namespace Sys2Proof.Machine

/-- The four wait phases (10_state.md R33). -/
def Phase.waiting : Phase → Bool
  | .idle => false
  | .phyWait => true
  | .asyncWait => true
  | .fcpWait => true
  | .scanWait => true
  | .reserved5 => false
  | .reserved6 => false
  | .faulted => false

/-- What PHY_WAIT needs (41_phy_transaction.md R240-R250): a signal is still awaited, RTT is valid once Sent has come, a
response is awaited only with a nonzero mask and reception armed, and the command is SEND_PHY or SEND_PHY_SYM. -/
structure PhyWaitLegal (s : State) : Prop where
  command : s.cmdOp = 0x1 ∨ s.cmdOp = 0x2
  awaiting : s.flags.awaitSent = true ∨ s.flags.awaitResp = true
  rtt : s.flags.rttValid = !s.flags.awaitSent
  armed : s.flags.awaitResp = true → s.pending.mask ≠ 0 ∧ s.ctx.phyRxEn = true

/-- What FCP_WAIT needs (44_fcp.md R360-R370). -/
structure FcpWaitLegal (s : State) : Prop where
  command : s.cmdOp = 0xA
  range : s.ctx.fcpRangeValid = true
  awaiting : ¬ (s.flags.fcpAckDone = true ∧ s.flags.fcpReqDone = true)

/-- What SCAN_WAIT needs (45_remote_phy_regs.md R390-R397). -/
structure ScanWaitLegal (s : State) : Prop where
  command : s.cmdOp = 0x9
  armed : s.ctx.phyRxEn = true
  predicate : s.pending = { mask := scanMask, bits := scanBits s.scan.phy }
  awaiting : s.scan.rxMask ≠ 0xFC

/-- The invariant of the block. -/
structure State.Inv (s : State) : Prop where
  /-- PHASE 5 and 6 are never written (10_state.md R33). -/
  phaseLegal : s.phase ≠ .reserved5 ∧ s.phase ≠ .reserved6
  /-- FAULT_CODE holds 0 or a fault's code: RemoteError and 8 to 15 are never written (60_exceptions.md R500, R505). -/
  faultCodeLegal : s.faultRegs.code ≠ 1 ∧ s.faultRegs.code.toNat < 8
  /-- FAULTED holds a fatal fault (60_exceptions.md R509, R510). -/
  faultedFatal : s.phase = .faulted → s.faultRegs.code = 2 ∨ s.faultRegs.code = 4 ∨ s.faultRegs.code = 5
  /-- A BusReset fault reports the generation it brought (60_exceptions.md R504). -/
  faultedGeneration : s.phase = .faulted → s.faultRegs.code = 5 → s.faultRegs.info = s.ctx.gen
  /-- RX_MASK bits 1 and 0 are always 0 (10_state.md R40). -/
  rxMaskLegal : s.scan.rxMask &&& 3 = 0
  /-- While a response is awaited the chain has room (41_phy_transaction.md R245). -/
  chainHasRoom : s.flags.awaitResp = true → s.chain.len ≠ 3
  /-- Every waiting command passed the connection guard (47_context_commands.md R462). -/
  waitingConnected : s.phase.waiting = true → s.ctx.genValid = true
  /-- Only a CONNECT on an open device handle sets GEN_VALID (47_context_commands.md R461). -/
  connectedOpen : s.ctx.genValid = true → s.params.deviceHandle ≠ none
  /-- An allocated range is the FCP response range (44_fcp.md R361). -/
  rangeLegal : s.ctx.fcpRangeValid = true →
    s.ctx.fcpRangeBase = s.params.fcpRespAddr ∧ s.ctx.fcpRangeLen = s.params.fcpRespLen
  /-- The payload buffers keep their canonical form. -/
  buffersCanonical : Memory.wf s.req.payload = true ∧ Memory.wf s.resp.data = true ∧ Memory.wf s.fcp.reply = true
  phyWaitLegal : s.phase = .phyWait → PhyWaitLegal s
  /-- ASYNC_WAIT belongs to an async command (10_state.md R33). -/
  asyncWaitLegal : s.phase = .asyncWait → s.cmdOp = 0x3 ∨ s.cmdOp = 0x4 ∨ s.cmdOp = 0x5
  fcpWaitLegal : s.phase = .fcpWait → FcpWaitLegal s
  scanWaitLegal : s.phase = .scanWait → ScanWaitLegal s

end Sys2Proof.Machine
end

