-- ==== Sys2Proof/Certificates/Slice0/Obligations.lean ====
section
/-! DEFINITION. The statements for the provers. A next state written with `with` is the whole next state: whatever the
update does not name is unchanged (its frame). A poll statement starts from what `nextEvent` gives; `PollChecksInOrder` says
what that is. -/

namespace Sys2Proof.Claims

open Sys2Proof.Machine

/-- A command's opcode (30_encoding.md R124). -/
def opcodeOf : Instr → BitVec 4
  | .connect => 0x0
  | .sendPhy _ _ _ _ => 0x1
  | .sendPhySym _ _ _ => 0x2
  | .asyncRead _ _ => 0x3
  | .asyncWrite _ _ => 0x4
  | .asyncLockMaskSwap _ _ _ => 0x5
  | .asyncLockCompareSwap _ _ _ => 0x5
  | .asyncLockFetchAdd _ _ _ => 0x5
  | .asyncLockLittleAdd _ _ _ => 0x5
  | .asyncLockBoundedAdd _ _ _ => 0x5
  | .asyncLockWrapAdd _ _ _ => 0x5
  | .encodeLockMaskSwap _ _ => 0x6
  | .encodeLockCompareSwap _ _ => 0x6
  | .encodeLockFetchAdd _ _ => 0x6
  | .encodeLockLittleAdd _ _ => 0x6
  | .encodeLockBoundedAdd _ _ => 0x6
  | .encodeLockWrapAdd _ _ => 0x6
  | .decodeSelfId _ _ => 0x7
  | .encodeSelfId _ _ _ => 0x8
  | .scanPhyRegs _ => 0x9
  | .sendFcp _ => 0xA
  | .busResetReqLong => 0xB
  | .busResetReqShort => 0xB
  | .illegalC _ => 0xC
  | .illegalD _ => 0xD
  | .illegalE _ => 0xE
  | .illegalF _ => 0xF

/-- The commands that submit to the kernel under the connection guard (47_context_commands.md R462). -/
def guarded (i : Instr) : Bool :=
  let o := opcodeOf i
  o == 0x1 || o == 0x2 || o == 0x3 || o == 0x4 || o == 0x5 || o == 0x9 || o == 0xA || o == 0xB

/-- The pure encoders ENCODE_LOCK, DECODE_SELF_ID, ENCODE_SELF_ID (47_context_commands.md R462). -/
def pureEncoder (i : Instr) : Bool :=
  let o := opcodeOf i
  o == 0x6 || o == 0x7 || o == 0x8

/-- The commands whose record carries no byte payload, so no padding. -/
def noPayload (i : Instr) : Bool :=
  let o := opcodeOf i
  !(o == 0x4 || o == 0x5 || o == 0x6 || o == 0xA)

/-- The two words of a result record with no data and RCODE 0 (30_encoding.md R126). -/
def plainResult (status opc : BitVec 4) (info : Word) : List Word := [place status 28 ||| place opc 24, info]

/-- The STATUS field of a result record (30_encoding.md R126). -/
def resultStatus (ws : List Word) : BitVec 4 := field (ws.headD 0) 28 4

/-- The state in which a poll has taken one answer of ENV and done nothing else (40_event_stream.md R204). -/
def polled (s : State) : State := { s with evtIn := s.evtIn.tail, polls := s.polls + 1 }

/-- A state in which the command in progress has raised a fault that leaves the block in `ph`. -/
def faultedWith (code : BitVec 4) (info : Word) (ph : Phase) (s : State) : State :=
  { s with faultRegs := { code := code, info := info }, phase := ph,
           resOut := s.resOut ++ [plainResult code s.cmdOp info] }

/-- The register writes of the start of a PHY transaction (41_phy_transaction.md R241). -/
def phyStarted (opc : BitVec 4) (mask bits : Word) (s : State) : State :=
  { s with cmdOp := opc, pending := { mask := mask, bits := bits },
           flags := { s.flags with awaitSent := true, awaitResp := mask != 0, rttValid := false },
           chain := { s.chain with len := 0 }, phyRes := { s.phyRes with lastResp := 0 } }

/-- The end of a PHY transaction: `finish(OK, LAST_RESP, RTT, CHAIN)` (41_phy_transaction.md R250, 30_encoding.md
R126). -/
def phyFinished (s : State) : State :=
  { s with phase := .idle,
           resOut := s.resOut ++ [resultWords 0 s.cmdOp 0
             (place s.chain.len 0 ||| (if s.flags.rttValid then 0x100 else 0))
             (bytesOf ([s.phyRes.lastResp, if s.flags.rttValid then s.phyRes.rtt else 0]
               ++ [s.chain.w0, s.chain.w1, s.chain.w2].take s.chain.len.toNat))] }

/-- The completion test of PHY_WAIT (41_phy_transaction.md R240, R250). -/
def phyFinishedIfDone (s : State) : State :=
  if s.flags.awaitSent = false ∧ s.flags.awaitResp = false then phyFinished s else s

/-- The async submission the request registers describe, with the given payload and generation (30_encoding.md R146). -/
def asyncRecord (r : Request) (payload : List Byte) (gen : Word) : Submission :=
  .async r.tcode r.offset r.len payload gen false

/-- The whole next state of an accepted async submission from request registers `r` (42_async_transaction.md R283). -/
def asyncStarted (opc : BitVec 4) (r : Request) (payload : List Byte) (s : State) : State :=
  { s with cmdOp := opc, phase := .asyncWait, req := { r with gen := s.ctx.gen, submits := 1 },
           subOut := s.subOut ++ [asyncRecord r payload s.ctx.gen], submitAnswers := s.submitAnswers.tail }

/-- The end of an async command with the response registers just written (42_async_transaction.md R286). -/
def asyncFinished (status : BitVec 4) (rc : BitVec 5) (n : BitVec 16) (p : List Byte) (s : State) : State :=
  { s with resp := { rcode := rc, len := n, data := writeBytes s.resp.data 0 p }, phase := .idle,
           resOut := s.resOut ++ [resultWords status s.cmdOp rc s.req.submits p] }

/-- The end of SEND_FCP (44_fcp.md R363, R370; 30_encoding.md R126). -/
def fcpFinished (status : BitVec 4) (s : State) : State :=
  { s with phase := .idle,
           resOut := s.resOut ++ [resultWords status s.cmdOp s.fcp.ackRcode
             ((if s.flags.fcpAckDone then 1 else 0) ||| (if s.flags.fcpReqDone then 2 else 0))
             (readBytes s.fcp.reply 0 s.fcp.replyLen.toNat)] }

/-- The completion test of FCP_WAIT (44_fcp.md R360, R370). -/
def fcpFinishedIfDone (s : State) : State :=
  if s.flags.fcpAckDone = true ∧ s.flags.fcpReqDone = true then fcpFinished 0 s else s

/-- The six result bytes of a scan, 0 for a register that has not arrived (45_remote_phy_regs.md R396). -/
def scanBytes (c : Scan) : List Byte :=
  [if c.rxMask.getLsbD 2 then c.regs.r2 else 0, if c.rxMask.getLsbD 3 then c.regs.r3 else 0,
    if c.rxMask.getLsbD 4 then c.regs.r4 else 0, if c.rxMask.getLsbD 5 then c.regs.r5 else 0,
    if c.rxMask.getLsbD 6 then c.regs.r6 else 0, if c.rxMask.getLsbD 7 then c.regs.r7 else 0]

/-- The access packet of a scan for one register, in the words of 45_remote_phy_regs.md R392. -/
def scanPacket (phy : BitVec 6) (gen : Word) (reg : Word) : Submission :=
  .phy ((phy.setWidth 32 <<< 24) ||| 0x00148000#32 ||| (reg <<< 8))
    (~~~((phy.setWidth 32 <<< 24) ||| 0x00148000#32 ||| (reg <<< 8))) gen

/-- The registers at the start of a scan (45_remote_phy_regs.md R390). -/
def scanStarted (phy : BitVec 6) (s : State) : State :=
  { s with cmdOp := 0x9, phase := .scanWait, scan := { s.scan with phy := phy, rxMask := 0 },
           pending := { mask := 0xFFFFF800, bits := (phy.setWidth 32 <<< 24) ||| 0x001C8000#32 } }

/-- Port state `p` of `F1`, as a word (46_self_id.md R426). -/
def portOf (f1 : Word) (p : Nat) : Word := (field f1 (30 - 2 * p) 2).setWidth 32

/-- The three words that R427 of 46_self_id.md builds for an `n`-word chain; the chain is the first `n`. -/
def selfIdWords (n : Nat) (f0 f1 : Word) : List Word :=
  [0x80000000#32 ||| f0 ||| portOf f1 0 <<< 6 ||| portOf f1 1 <<< 4 ||| portOf f1 2 <<< 2 ||| (if 1 < n then 1#32 else 0#32),
   0x80000000#32 ||| (f0 &&& 0x3F000000#32) ||| 0x00800000#32
     ||| (portOf f1 3 <<< 16 ||| portOf f1 4 <<< 14 ||| portOf f1 5 <<< 12 ||| portOf f1 6 <<< 10 ||| portOf f1 7 <<< 8
       ||| portOf f1 8 <<< 6 ||| portOf f1 9 <<< 4 ||| portOf f1 10 <<< 2) ||| (if 2 < n then 1#32 else 0#32),
   0x80000000#32 ||| (f0 &&& 0x3F000000#32) ||| 0x00900000#32
     ||| (portOf f1 11 <<< 16 ||| portOf f1 12 <<< 14 ||| portOf f1 13 <<< 12 ||| portOf f1 14 <<< 10
       ||| portOf f1 15 <<< 8)]

/-- ENV lists that it accepts the next submissions, one operation handle each, and then `rest`. -/
def acceptsNext (s : State) (ops : List Nat) (rest : List SubmitAnswer) : Prop :=
  s.submitAnswers = ops.map SubmitAnswer.ok ++ rest

/-- The wait phase still waits for something (41_phy_transaction.md R240, 44_fcp.md R360, 45_remote_phy_regs.md R396). -/
def stillAwaiting (s : State) : Prop :=
  s.phase.waiting = true ∧
    (s.phase = .phyWait → s.flags.awaitSent = true ∨ s.flags.awaitResp = true) ∧
    (s.phase = .fcpWait → ¬ (s.flags.fcpAckDone = true ∧ s.flags.fcpReqDone = true)) ∧
    (s.phase = .scanWait → s.scan.rxMask ≠ 0xFC)

/-- An event type that the block does not know (40_event_stream.md R205). -/
def unknownType (w : Word) : Prop := w ≠ 0x00 ∧ w ≠ 0x01 ∧ w ≠ 0x02 ∧ w ≠ 0x06 ∧ w ≠ 0x08 ∧ w ≠ 0x09

/-- A delivered record that passes the length checks (40_event_stream.md R204). -/
def validRecord (p : Params) (r : EventRecord) : Prop :=
  p.minEventLen ≤ r.len ∧
    (r.type = 0x00 → p.minLenBusReset ≤ r.len) ∧ (r.type = 0x01 → p.minLenResponse ≤ r.len) ∧
    (r.type = 0x02 → p.minLenRequest ≤ r.len) ∧ (r.type = 0x06 → p.minLenRequest2 ≤ r.len) ∧
    (r.type = 0x08 → p.minLenSent ≤ r.len) ∧ (r.type = 0x09 → p.minLenReceived ≤ r.len)

end Sys2Proof.Claims

open Sys2Proof Sys2Proof.Machine Sys2Proof.Claims

/-! ## Encoding -/

/-- Every well-formed instruction is read back from its record, whatever follows it (30_encoding.md R120-R125). -/
def Obligations.DecodeInvertsEncode : Prop :=
  ∀ (i : Instr) (rest : List Word), i.wellFormed = true → decode (encode i ++ rest) = some (.instr i, rest)

/-- A record without byte payload has no bit the decoder drops: encoding what it read gives the words back. -/
def Obligations.EncodeInvertsDecode : Prop :=
  ∀ (ws : List Word) (i : Instr) (rest : List Word),
    decode ws = some (.instr i, rest) → noPayload i = true → ws = encode i ++ rest

/-- The decoder gives well-formed instructions only. -/
def Obligations.DecodedInstrIsWellFormed : Prop :=
  ∀ (ws : List Word) (i : Instr) (rest : List Word), decode ws = some (.instr i, rest) → i.wellFormed = true

/-- Words written out from R124 decode to their instructions. -/
def Obligations.SpecWordsDecode : Prop :=
  decode [0x00000000] = some (.instr .connect, []) ∧
  decode [0x30000004, 0x0000FFFF, 0xF0000400] = some (.instr (.asyncRead 0xFFFFF0000400 4), []) ∧
  decode [0x40000005, 0, 0x00001000, 0x01020304, 0x05000000]
    = some (.instr (.asyncWrite 0x1000 [1, 2, 3, 4, 5]), []) ∧
  decode [0x62000404, 1, 2] = some (.instr (.encodeLockCompareSwap [0, 0, 0, 1] [0, 0, 0, 2]), []) ∧
  decode [0x70000004] = some (.instr (.decodeSelfId 4 []), []) ∧
  decode [0x9000003F] = some (.instr (.scanPhyRegs 63), []) ∧
  decode [0xB1000000] = some (.instr .busResetReqShort, []) ∧
  decode [0xF1234567] = some (.instr (.illegalF 0x1234567), [])

/-- L(H) is the table of R125, and a step in IDLE or FAULTED consumes exactly the header and its L(H) operand words,
whether or not the record is an instruction. -/
def Obligations.RecordFramingNeverLost : Prop :=
  (∀ h : Word,
    operandCount h =
      (let o := (field h 28 4).toNat
       let arg := (field h 0 16).toNat
       let widths := (field h 8 8).toNat + (field h 0 8).toNat
       if o = 0x1 then 4 else if o = 0x2 then 3 else if o = 0x3 then 2
       else if o = 0x4 then 2 + (arg + 3) / 4
       else if o = 0x5 then 2 + (widths + 3) / 4
       else if o = 0x6 then (widths + 3) / 4
       else if o = 0x7 then (if 1 ≤ arg ∧ arg ≤ 3 then arg else 0)
       else if o = 0x8 then 2
       else if o = 0xA then (arg + 3) / 4
       else 0)) ∧
  ∀ (s : State) (h : Word) (ops rest : List Word),
    s.phase = .idle ∨ s.phase = .faulted → s.cmdIn = h :: (ops ++ rest) → ops.length = operandCount h →
    ∃ t, step s = .next t ∧ t.cmdIn = rest

/-- CheckHeader's reserved bits: for opcodes 0x0 to 0xB, a whole record is answered with InvalidArgument(RESERVED_BITS)
when RSV, an unused SUB, an unused ARG bit or the upper half of OFF_HI is not 0; nothing else changes. (ENCODE_SELF_ID
gives the same answer to its own field checks too: EncodeSelfIdResult.) -/
def Obligations.ReservedBitsRefused : Prop :=
  ∀ (s : State) (h : Word) (ops rest : List Word),
    s.phase = .idle → s.cmdIn = h :: (ops ++ rest) → ops.length = operandCount h →
    (field h 28 4).toNat < 0xC →
    (field h 16 8 ≠ 0
      ∨ (field h 24 4 ≠ 0 ∧ field h 28 4 ≠ 0x5 ∧ field h 28 4 ≠ 0x6 ∧ field h 28 4 ≠ 0xB)
      ∨ (field h 0 16 ≠ 0 ∧ (field h 28 4 = 0x0 ∨ field h 28 4 = 0x1 ∨ field h 28 4 = 0x2 ∨ field h 28 4 = 0xB))
      ∨ (field h 28 4 = 0x9 ∧ field h 6 10 ≠ 0)
      ∨ ((field h 28 4 = 0x3 ∨ field h 28 4 = 0x4 ∨ field h 28 4 = 0x5) ∧ field (ops.headD 0) 16 16 ≠ 0)) →
    step s = .next (faultedWith 7 2 .idle { s with cmdIn := rest, cmdOp := field h 28 4 })

/-! ## The step -/

/-- A step runs the decoded instruction: in IDLE and FAULTED the record at the head of CMD_IN is taken off and run;
with no whole record there the block waits (the model's reading, notes/assumptions/7.md); in a wait phase the step is
one poll of that phase (notes/assumptions/5.md). -/
def Obligations.StepRunsDecodedInstruction : Prop :=
  (∀ (s : State) (i : Instr) (rest : List Word), s.phase = .idle ∨ s.phase = .faulted →
    decode s.cmdIn = some (.instr i, rest) → step s = exec i { s with cmdIn := rest }) ∧
  (∀ (s : State) (r : Reject) (rest : List Word), s.phase = .idle ∨ s.phase = .faulted →
    decode s.cmdIn = some (.reject r, rest) → step s = execReject r { s with cmdIn := rest }) ∧
  (∀ s : State, s.phase = .idle ∨ s.phase = .faulted → decode s.cmdIn = none → step s = .next s) ∧
  (∀ s : State, s.phase = .phyWait → step s = .next (pollPhy s)) ∧
  (∀ s : State, s.phase = .asyncWait → step s = .next (pollAsync s)) ∧
  (∀ s : State, s.phase = .fcpWait → step s = .next (pollFcp s)) ∧
  (∀ s : State, s.phase = .scanWait → step s = .next (pollScan s))

/-- The machine stops in the PHASE codes 5 and 6 only (93_implementation_defined.md U2; that it stops there is the
model's choice, notes/assumptions/13.md); it never refuses. -/
def Obligations.StepStopsOnlyInReservedPhases : Prop :=
  ∀ s : State,
    ((s.phase = .reserved5 ∨ s.phase = .reserved6) → step s = .fault .reservedPhase) ∧
    (s.phase ≠ .reserved5 → s.phase ≠ .reserved6 → ∃ t, step s = .next t)

/-- A wait phase takes no command record and makes exactly one poll: one answer of ENV is consumed (where none is listed, a
free value stands for it). In IDLE and FAULTED the block reads no event, and only a CONNECT record changes GEN. -/
def Obligations.OneInputPerStep : Prop :=
  ∀ s t : State, step s = .next t →
    (s.phase.waiting = true → t.cmdIn = s.cmdIn ∧ t.evtIn = s.evtIn.tail ∧ t.polls = s.polls + 1) ∧
    (s.phase = .idle ∨ s.phase = .faulted →
      t.evtIn = s.evtIn ∧ t.polls = s.polls ∧
        (t.ctx.gen ≠ s.ctx.gen → ∃ rest, decode s.cmdIn = some (.instr .connect, rest)))

/-! ## Faults and results -/

/-- The layout of a result record (30_encoding.md R126, R122): byte i of the data lies in word i div 4, the first byte most
significant, and the padding bytes of the last word are 0. -/
def Obligations.ResultRecordLayout : Prop :=
  ∀ (status opc : BitVec 4) (rcode : BitVec 5) (info : Word) (data : List Byte), data.length < 2 ^ 16 →
    ∃ rw0 words, resultWords status opc rcode info data = rw0 :: info :: words ∧
      field rw0 28 4 = status ∧ field rw0 24 4 = opc ∧ field rw0 21 3 = 0 ∧ field rw0 16 5 = rcode ∧
      (field rw0 0 16).toNat = data.length ∧ words.length = (data.length + 3) / 4 ∧
      unpackBytes data.length words = data ∧
      (∀ i, i < 4 * words.length → field (words.getD (i / 4) 0) (24 - 8 * (i % 4)) 8 = data.getD i 0)

/-- Taking a fault: FAULT_CODE and FAULT_INFO are written, one record with RCODE 0 and LEN 0 is given, and the phase is
FAULTED for IoFailure, ProtocolCorruption and BusReset, IDLE for the other three. -/
def Obligations.FaultTaking : Prop :=
  ∀ (info : Word) (s : State),
    raise .ioFailure info s = faultedWith 2 info .faulted s ∧
    raise .protocolTimeout info s = faultedWith 3 info .idle s ∧
    raise .protocolCorruption info s = faultedWith 4 info .faulted s ∧
    raise .busReset info s = faultedWith 5 info .faulted s ∧
    raise .invalidOperandWidth info s = faultedWith 6 info .idle s ∧
    raise .invalidArgument info s = faultedWith 7 info .idle s

/-- In FAULTED every whole record is consumed and answered with the stored fault, and no register changes. -/
def Obligations.FaultedAnswersStoredFault : Prop :=
  ∀ (s : State) (h : Word) (ops rest : List Word),
    s.phase = .faulted → s.cmdIn = h :: (ops ++ rest) → ops.length = operandCount h →
    step s = .next { s with cmdIn := rest,
                            resOut := s.resOut ++ [plainResult s.faultRegs.code (field h 28 4) s.faultRegs.info] }

/-- FAULTED is sticky over any number of steps, with FAULT_CODE and FAULT_INFO; reset leaves it. -/
def Obligations.FaultedIsSticky : Prop :=
  (∀ (k : Nat) (s t : State), s.phase = .faulted → Host.Core.run Sys2Proof.core k s = .next t →
    t.phase = .faulted ∧ t.faultRegs = s.faultRegs) ∧
  (∀ s : State, (applyReset s).phase = .idle)

/-- Every InvalidArgument and InvalidOperandWidth fault comes from the step that takes the record, before any
submission or poll; that step has written CMD_OP, FAULT_CODE and FAULT_INFO only. No poll gives one. -/
def Obligations.ValidationBeforeSend : Prop :=
  (∀ (d : Decoded) (s t : State) (ws : List Word), s.phase = .idle → runRecord d s = .next t →
    t.resOut = s.resOut ++ [ws] → resultStatus ws = 6 ∨ resultStatus ws = 7 →
    t = { s with cmdOp := t.cmdOp, faultRegs := t.faultRegs, resOut := t.resOut }) ∧
  (∀ (s t : State) (ws : List Word), s.phase.waiting = true → step s = .next t → t.resOut = s.resOut ++ [ws] →
    resultStatus ws ≠ 6 ∧ resultStatus ws ≠ 7)

/-- One result record per command: a step that takes a record either enters a wait with no record given, or ends the
command with exactly one; a poll either keeps waiting with none given, or ends the command with exactly one. That a
step with no whole record to take changes nothing is the model's reading (notes/assumptions/7.md, DEDUCED). -/
def Obligations.OneResultPerCommand : Prop :=
  ∀ s t : State, step s = .next t →
    (s.phase.waiting = false →
      (decode s.cmdIn = none ∧ t = s) ∨
      ((decode s.cmdIn).isSome = true ∧
        ((t.phase.waiting = true ∧ t.resOut = s.resOut) ∨
         (t.phase.waiting = false ∧ ∃ ws, t.resOut = s.resOut ++ [ws])))) ∧
    (s.phase.waiting = true →
      (t.phase = s.phase ∧ t.resOut = s.resOut) ∨
      (t.phase.waiting = false ∧ ∃ ws, t.resOut = s.resOut ++ [ws]))

/-- A refused submission is never retried: where ENV refuses submission k of a step (counted from 0) and the step gets as far
as making it, it is the last one; the command ends in the fatal IoFailure(SUBMIT_REJECTED) and the submissions before it
stay made, whatever the command or the wait (GET_INFO has its own answers). -/
def Obligations.RefusedSubmissionIsFatal : Prop :=
  ∀ (s t : State) (k : Nat), answerTo s k = .rejected → step s = .next t → s.subOut.length + k < t.subOut.length →
    t.subOut = s.subOut ++ [.getInfo] ∨
    ((∃ subs, subs.length = k + 1 ∧ t.subOut = s.subOut ++ subs) ∧
      t.submitAnswers = s.submitAnswers.drop (k + 1) ∧ t.phase = .faulted ∧
      t.faultRegs = { code := 2, info := 3 } ∧ t.resOut = s.resOut ++ [plainResult 2 t.cmdOp 3])

/-- The connection guard: without GEN_VALID every submitting command ends in InvalidArgument(NOT_CONNECTED) before any
submission; the pure encoders do not depend on the context registers. -/
def Obligations.ConnectionGuard : Prop :=
  (∀ (i : Instr) (s : State), guarded i = true → s.phase ≠ .faulted → s.ctx.genValid = false →
    exec i s = .next (faultedWith 7 3 .idle { s with cmdOp := opcodeOf i })) ∧
  (∀ s : State, s.phase ≠ .faulted → s.ctx.genValid = false →
    execReject .badAsyncLockOp s = .next (faultedWith 7 3 .idle { s with cmdOp := 0x5 }) ∧
    execReject .badResetKind s = .next (faultedWith 7 3 .idle { s with cmdOp := 0xB })) ∧
  (∀ (i : Instr) (s t : State) (c : Context), pureEncoder i = true → exec i s = .next t →
    exec i { s with ctx := c } = .next { t with ctx := c })

/-- Lock kinds 0 and 7 to 15, reset kinds 2 to 15 and lengths above P_MAX_PAYLOAD (ASYNC_READ, ASYNC_WRITE, SEND_FCP) are
refused by name before any submission. First for a whole record in IDLE with that SUB and no reserved bit set, the
connection guard of ASYNC_LOCK and BUS_RESET_REQ coming before the kind; then for the rejections and the lengths. -/
def Obligations.BadKindsAndLengthsRefused : Prop :=
  (∀ (s : State) (h : Word) (ops rest : List Word),
    s.phase = .idle → s.cmdIn = h :: (ops ++ rest) → ops.length = operandCount h → field h 16 8 = 0 →
    let v : State := { s with cmdIn := rest, cmdOp := field h 28 4 }
    (field h 28 4 = 0x6 → field h 24 4 = 0 ∨ 7 ≤ (field h 24 4).toNat → step s = .next (faultedWith 7 6 .idle v)) ∧
    (field h 28 4 = 0x5 → field h 24 4 = 0 ∨ 7 ≤ (field h 24 4).toNat → field (ops.headD 0) 16 16 = 0 →
      step s = .next (faultedWith 7 (if s.ctx.genValid then 6 else 3) .idle v)) ∧
    (field h 28 4 = 0xB → 2 ≤ (field h 24 4).toNat → field h 0 16 = 0 →
      step s = .next (faultedWith 7 (if s.ctx.genValid then 7 else 3) .idle v))) ∧
  ∀ s : State, s.phase ≠ .faulted →
    execReject .badEncodeLockOp s = .next (faultedWith 7 6 .idle { s with cmdOp := 0x6 }) ∧
    (s.ctx.genValid = true →
      execReject .badAsyncLockOp s = .next (faultedWith 7 6 .idle { s with cmdOp := 0x5 }) ∧
      execReject .badResetKind s = .next (faultedWith 7 7 .idle { s with cmdOp := 0xB }) ∧
      (∀ (o : Offset) (len : BitVec 16), s.params.maxPayload.toNat < len.toNat →
        exec (.asyncRead o len) s = .next (faultedWith 7 4 .idle { s with cmdOp := 0x3 })) ∧
      (∀ (o : Offset) (b : List Byte), s.params.maxPayload.toNat < b.length →
        exec (.asyncWrite o b) s = .next (faultedWith 7 4 .idle { s with cmdOp := 0x4 })) ∧
      (∀ b : List Byte, s.params.maxPayload.toNat < b.length →
        exec (.sendFcp b) s = .next (faultedWith 7 4 .idle { s with cmdOp := 0xA })))

/-! ## CONNECT, BUS_RESET_REQ, illegal opcodes -/

/-- CONNECT on an open handle with an answered get_info: the context registers take the snapshot, the record is reported,
nothing else changes. -/
def Obligations.ConnectReadsContext : Prop :=
  ∀ (s : State) (handle : Nat) (r : InfoRecord), s.phase ≠ .faulted → s.params.deviceHandle = some handle →
    infoAnswer s = .ok r →
    exec .connect s = .next { s with
      cmdOp := 0x0, phase := .idle,
      ctx := { s.ctx with cardIndex := r.cardIndex, gen := r.generation, localNode := r.localNode,
                          rootNode := r.rootNode, genValid := true },
      subOut := s.subOut ++ [.getInfo], infoAnswers := s.infoAnswers.tail,
      resOut := s.resOut ++ [[0x00000010, 0, r.generation, r.localNode.setWidth 32, r.rootNode.setWidth 32,
        r.cardIndex]] }

/-- A refused get_info raises IoFailure(INFO_FAILED), a handle never opened IoFailure(OPEN_FAILED), whatever ENV lists;
both are fatal and GEN_VALID stays as it was. -/
def Obligations.ConnectInfoFailure : Prop :=
  ∀ s : State, s.phase ≠ .faulted →
    (∀ handle : Nat, s.params.deviceHandle = some handle → infoAnswer s = .rejected →
      exec .connect s = .next (faultedWith 2 2 .faulted { s with
        cmdOp := 0x0, subOut := s.subOut ++ [.getInfo], infoAnswers := s.infoAnswers.tail })) ∧
    (s.params.deviceHandle = none →
      exec .connect s = .next (faultedWith 2 1 .faulted { s with
        cmdOp := 0x0, subOut := s.subOut ++ [.getInfo], infoAnswers := s.infoAnswers.tail }))

/-- BUS_RESET_REQ.LONG and .SHORT: one BUS_RESET submission of kind 0 or 1, no wait, GEN unchanged; a refusal is
IoFailure(SUBMIT_REJECTED). -/
def Obligations.BusResetRequestSubmits : Prop :=
  ∀ s : State, s.phase ≠ .faulted → s.ctx.genValid = true →
    (∀ op : Nat, submitAnswer s = .ok op →
      exec .busResetReqLong s = .next { s with
        cmdOp := 0xB, phase := .idle, subOut := s.subOut ++ [.busReset 0],
        submitAnswers := s.submitAnswers.tail, resOut := s.resOut ++ [[0x0B000000, 0]] } ∧
      exec .busResetReqShort s = .next { s with
        cmdOp := 0xB, phase := .idle, subOut := s.subOut ++ [.busReset 1],
        submitAnswers := s.submitAnswers.tail, resOut := s.resOut ++ [[0x0B000000, 0]] }) ∧
    (submitAnswer s = .rejected →
      exec .busResetReqLong s = .next (faultedWith 2 3 .faulted { s with
        cmdOp := 0xB, subOut := s.subOut ++ [.busReset 0], submitAnswers := s.submitAnswers.tail }) ∧
      exec .busResetReqShort s = .next (faultedWith 2 3 .faulted { s with
        cmdOp := 0xB, subOut := s.subOut ++ [.busReset 1], submitAnswers := s.submitAnswers.tail }))

/-- Opcodes 0xC to 0xF: a one-word record, InvalidArgument(ILLEGAL_OPCODE), back to IDLE; CMD_OP takes the opcode. -/
def Obligations.IllegalOpcodesFault : Prop :=
  (∀ (s : State) (h : Word) (rest : List Word), s.phase = .idle → s.cmdIn = h :: rest → 0xC ≤ (field h 28 4).toNat →
    step s = .next (faultedWith 7 1 .idle { s with cmdIn := rest, cmdOp := field h 28 4 })) ∧
  (∀ (s : State) (r : BitVec 28), s.phase ≠ .faulted →
    exec (.illegalC r) s = .next (faultedWith 7 1 .idle { s with cmdOp := 0xC }) ∧
    exec (.illegalD r) s = .next (faultedWith 7 1 .idle { s with cmdOp := 0xD }) ∧
    exec (.illegalE r) s = .next (faultedWith 7 1 .idle { s with cmdOp := 0xE }) ∧
    exec (.illegalF r) s = .next (faultedWith 7 1 .idle { s with cmdOp := 0xF }))

/-! ## PHY transactions -/

/-- SEND_PHY and SEND_PHY_SYM with a connected block and accepting kernel: the PHY transaction is started and the
packet submitted once with the current generation; reception is armed first when a response is expected and it is not
yet armed. SEND_PHY sends `d1` as given, SEND_PHY_SYM sends the complement. -/
def Obligations.SendPhyStarts : Prop :=
  ∀ (s : State) (d0 d1 mask bits : Word), s.phase ≠ .faulted → s.ctx.genValid = true →
    (∀ op : Nat, mask = 0 ∨ s.ctx.phyRxEn = true → submitAnswer s = .ok op →
      exec (.sendPhy d0 d1 mask bits) s = .next { phyStarted 0x1 mask bits s with
        phase := .phyWait, subOut := s.subOut ++ [.phy d0 d1 s.ctx.gen],
        submitAnswers := s.submitAnswers.tail } ∧
      exec (.sendPhySym d0 mask bits) s = .next { phyStarted 0x2 mask bits s with
        phase := .phyWait, subOut := s.subOut ++ [.phy d0 (d0 ^^^ 0xFFFFFFFF) s.ctx.gen],
        submitAnswers := s.submitAnswers.tail }) ∧
    (∀ op op' : Nat, mask ≠ 0 → s.ctx.phyRxEn = false → submitAnswer s = .ok op →
      submitAnswer (s.putSub .enablePhyRx) = .ok op' →
      exec (.sendPhy d0 d1 mask bits) s = .next { phyStarted 0x1 mask bits s with
        phase := .phyWait, ctx := { s.ctx with phyRxEn := true },
        subOut := s.subOut ++ [.enablePhyRx, .phy d0 d1 s.ctx.gen],
        submitAnswers := s.submitAnswers.tail.tail } ∧
      exec (.sendPhySym d0 mask bits) s = .next { phyStarted 0x2 mask bits s with
        phase := .phyWait, ctx := { s.ctx with phyRxEn := true },
        subOut := s.subOut ++ [.enablePhyRx, .phy d0 (d0 ^^^ 0xFFFFFFFF) s.ctx.gen],
        submitAnswers := s.submitAnswers.tail.tail })

/-- A refusal while SEND_PHY or SEND_PHY_SYM starts is IoFailure(SUBMIT_REJECTED), fatal, and keeps what was done: a
refused enable sends no packet, a refused send leaves reception as it then is. -/
def Obligations.SendPhyRefusedKeepsEffects : Prop :=
  ∀ (s : State) (d0 d1 mask bits : Word), s.phase ≠ .faulted → s.ctx.genValid = true →
    (mask ≠ 0 → s.ctx.phyRxEn = false → submitAnswer s = .rejected →
      exec (.sendPhy d0 d1 mask bits) s = .next (faultedWith 2 3 .faulted { phyStarted 0x1 mask bits s with
        subOut := s.subOut ++ [.enablePhyRx], submitAnswers := s.submitAnswers.tail }) ∧
      exec (.sendPhySym d0 mask bits) s = .next (faultedWith 2 3 .faulted { phyStarted 0x2 mask bits s with
        subOut := s.subOut ++ [.enablePhyRx], submitAnswers := s.submitAnswers.tail })) ∧
    (mask = 0 ∨ s.ctx.phyRxEn = true → submitAnswer s = .rejected →
      exec (.sendPhy d0 d1 mask bits) s = .next (faultedWith 2 3 .faulted { phyStarted 0x1 mask bits s with
        subOut := s.subOut ++ [.phy d0 d1 s.ctx.gen], submitAnswers := s.submitAnswers.tail }) ∧
      exec (.sendPhySym d0 mask bits) s = .next (faultedWith 2 3 .faulted { phyStarted 0x2 mask bits s with
        subOut := s.subOut ++ [.phy d0 (d0 ^^^ 0xFFFFFFFF) s.ctx.gen], submitAnswers := s.submitAnswers.tail })) ∧
    (∀ op : Nat, mask ≠ 0 → s.ctx.phyRxEn = false → submitAnswer s = .ok op →
      submitAnswer (s.putSub .enablePhyRx) = .rejected →
      exec (.sendPhy d0 d1 mask bits) s = .next (faultedWith 2 3 .faulted { phyStarted 0x1 mask bits s with
        ctx := { s.ctx with phyRxEn := true },
        subOut := s.subOut ++ [.enablePhyRx, .phy d0 d1 s.ctx.gen],
        submitAnswers := s.submitAnswers.tail.tail }) ∧
      exec (.sendPhySym d0 mask bits) s = .next (faultedWith 2 3 .faulted { phyStarted 0x2 mask bits s with
        ctx := { s.ctx with phyRxEn := true },
        subOut := s.subOut ++ [.enablePhyRx, .phy d0 (d0 ^^^ 0xFFFFFFFF) s.ctx.gen],
        submitAnswers := s.submitAnswers.tail.tail }))

/-- A Sent event in PHY_WAIT: a non-COMPLETE status is IoFailure(SEND_FAILED); a good one records the ticks and clears
AWAIT_SENT, and ends the command when no response is awaited. -/
def Obligations.PhySentEvent : Prop :=
  ∀ (s u : State) (status : BitVec 5) (ticks : Word), s.phase = .phyWait →
    nextEvent s = .event (.sent status ticks) u →
    (status ≠ 0 → step s = .next (faultedWith 2 4 .faulted u)) ∧
    (status = 0 → step s = .next (phyFinishedIfDone { u with
      phyRes := { u.phyRes with rtt := ticks },
      flags := { u.flags with awaitSent := false, rttValid := true } }))

/-- A received PHY packet that does not match, or arrives while no response is awaited, changes no register. -/
def Obligations.PhyNonMatchingDiscarded : Prop :=
  ∀ (s u : State) (w : Word), s.phase = .phyWait → nextEvent s = .event (.phyReceived w) u →
    s.flags.awaitSent = true ∨ s.flags.awaitResp = true →
    s.flags.awaitResp = false ∨ w &&& s.pending.mask ≠ s.pending.bits →
    step s = .next (polled s)

/-- A matching Self-ID word is appended at CHAIN[CHAIN_LEN]; the command keeps waiting for the chain only while bit 0
of the word is set and the chain is not full. -/
def Obligations.PhySelfIdAccumulates : Prop :=
  ∀ (s u : State) (w : Word), s.phase = .phyWait → nextEvent s = .event (.phyReceived w) u →
    s.flags.awaitResp = true → w &&& s.pending.mask = s.pending.bits → field w 30 2 = 0b10 → s.chain.len ≠ 3 →
    step s = .next (phyFinishedIfDone { u with
      chain := { w0 := if s.chain.len = 0 then w else s.chain.w0,
                 w1 := if s.chain.len = 1 then w else s.chain.w1,
                 w2 := if s.chain.len = 2 then w else s.chain.w2,
                 len := s.chain.len + 1 },
      phyRes := { s.phyRes with lastResp := w },
      flags := { s.flags with awaitResp := decide (field w 0 1 = 1 ∧ s.chain.len ≠ 2) } })

/-- A matching word that is no Self-ID word is the final response, even when a partial chain is held. -/
def Obligations.PhyFinalResponse : Prop :=
  ∀ (s u : State) (w : Word), s.phase = .phyWait → nextEvent s = .event (.phyReceived w) u →
    s.flags.awaitResp = true → w &&& s.pending.mask = s.pending.bits → field w 30 2 ≠ 0b10 →
    step s = .next (phyFinishedIfDone { u with
      phyRes := { s.phyRes with lastResp := w }, flags := { s.flags with awaitResp := false } })

/-- PING's predicate: exactly the Self-ID words of the pinged PHY match. -/
def Obligations.PingMatchesItsSelfIds : Prop :=
  ∀ (phy : BitVec 6) (w : Word), ∃ q mask bits, pseudoPing phy = .sendPhySym q mask bits ∧
    q = phy.setWidth 32 <<< 24 ∧ (w &&& mask = bits ↔ field w 30 2 = 0b10 ∧ field w 24 6 = phy)

/-! ## Polls -/

/-- One poll of EVT_IN, its checks in their order, for every answer of ENV. The answer is the first listed one; that it is
a free value where none is listed is the model's (notes/assumptions/3.md). -/
def Obligations.PollChecksInOrder : Prop :=
  ∀ s : State,
    (∀ (a : PollAnswer) (es : List PollAnswer), s.evtIn = a :: es → pollAnswer s = a) ∧
    (pollAnswer s = .timeout → nextEvent s = .timeout (polled s)) ∧
    (pollAnswer s = .readFailed → nextEvent s = .ended (faultedWith 2 5 .faulted (polled s))) ∧
    ∀ r : EventRecord, pollAnswer s = .event r →
      (r.len < s.params.minEventLen → nextEvent s = .ended (faultedWith 4 1 .faulted (polled s))) ∧
      (s.params.minEventLen ≤ r.len → ¬ validRecord s.params r →
        nextEvent s = .ended (faultedWith 4 2 .faulted (polled s))) ∧
      (validRecord s.params r →
        (r.type = 0x00 → nextEvent s = .event (.busReset r.generation r.rootNode r.localNode) { polled s with
          ctx := { s.ctx with gen := r.generation, localNode := r.localNode, rootNode := r.rootNode } }) ∧
        (r.type = 0x08 → nextEvent s = .event (.sent r.status r.ticks) (polled s)) ∧
        (r.type = 0x09 → nextEvent s = .event (.phyReceived r.data) (polled s)) ∧
        (r.payload.length < 2 ^ 16 → r.type = 0x01 →
          nextEvent s = .event (.asyncResponse r.rcode (BitVec.ofNat 16 r.payload.length) r.payload r.handle)
            (polled s)) ∧
        (r.payload.length < 2 ^ 16 → r.type = 0x02 ∨ r.type = 0x06 →
          nextEvent s = .event (.asyncRequest r.handle r.tcode r.offset (BitVec.ofNat 16 r.payload.length)
            r.payload) (polled s)) ∧
        (unknownType r.type → nextEvent s = .event .other (polled s)))

/-- What a step of any wait phase does where the poll itself ends the command: a failed read is the fatal
IoFailure(READ_FAILED); a short read and a record too short for its type are fatal ProtocolCorruptions. Nothing else
changes, GEN included, even where the record is a BUS_RESET. -/
def Obligations.ShortReadIsFatal : Prop :=
  ∀ s : State, s.phase.waiting = true →
    (pollAnswer s = .readFailed → step s = .next (faultedWith 2 5 .faulted (polled s))) ∧
    ∀ r : EventRecord, pollAnswer s = .event r →
      (r.len < s.params.minEventLen → step s = .next (faultedWith 4 1 .faulted (polled s))) ∧
      (s.params.minEventLen ≤ r.len → ¬ validRecord s.params r →
        step s = .next (faultedWith 4 2 .faulted (polled s)))

/-- Every valid BUS_RESET record updates GEN, LOCAL_NODE and ROOT_NODE in every wait phase, whatever the phase does
with it; GEN_VALID stays; PHY_WAIT, FCP_WAIT and SCAN_WAIT fault, ASYNC_WAIT continues. -/
def Obligations.BusResetUpdatesGeneration : Prop :=
  ∀ (s : State) (r : EventRecord), s.phase.waiting = true → pollAnswer s = .event r → validRecord s.params r →
    r.type = 0x00 →
    ∃ t, step s = .next t ∧
      t.ctx = { s.ctx with gen := r.generation, localNode := r.localNode, rootNode := r.rootNode } ∧
      (s.phase = .asyncWait → t.phase = .asyncWait) ∧ (s.phase ≠ .asyncWait → t.phase = .faulted)

/-- A BusReset event is the fatal BusReset fault in PHY_WAIT, FCP_WAIT and SCAN_WAIT, FAULT_INFO the new generation; in
ASYNC_WAIT it raises nothing and resubmits nothing. -/
def Obligations.BusResetFatalOutsideAsync : Prop :=
  ∀ (s u : State) (g : Word) (root loc : BitVec 6), nextEvent s = .event (.busReset g root loc) u →
    (s.phase = .phyWait ∨ s.phase = .fcpWait ∨ s.phase = .scanWait → step s = .next (faultedWith 5 g .faulted u)) ∧
    (s.phase = .asyncWait → step s = .next u)

/-- A zero-event poll ends the command with ProtocolTimeout and the phase code, back to IDLE, with no data; only the
scan's record carries RX_MASK as INFO and the registers received so far, 0 for the rest. -/
def Obligations.TimeoutEndsCommand : Prop :=
  ∀ s u : State, nextEvent s = .timeout u →
    (s.phase = .phyWait → step s = .next (faultedWith 3 1 .idle u)) ∧
    (s.phase = .asyncWait → step s = .next (faultedWith 3 2 .idle u)) ∧
    (s.phase = .fcpWait → step s = .next (faultedWith 3 3 .idle u)) ∧
    (s.phase = .scanWait → step s = .next { u with
      faultRegs := { code := 3, info := 4 }, phase := .idle,
      resOut := s.resOut ++ [resultWords 3 s.cmdOp 0 (s.scan.rxMask.setWidth 32) (scanBytes s.scan)] })

/-- Events a phase does not wait for are consumed and change no register. So no number of them ends a wait: the block has no
bound on a wait but a poll without an event (R609). -/
def Obligations.UnrelatedEventsDiscarded : Prop :=
  (∀ (k : Nat) (s : State) (rs : List EventRecord) (es : List PollAnswer), stillAwaiting s → rs.length = k →
    (∀ r ∈ rs, validRecord s.params r ∧ unknownType r.type) → s.evtIn = rs.map PollAnswer.event ++ es →
    Host.Core.run Sys2Proof.core k s = .next { s with evtIn := es, polls := s.polls + k }) ∧
  ∀ (s u : State) (e : Event), nextEvent s = .event e u →
    (s.phase = .phyWait → s.flags.awaitSent = true ∨ s.flags.awaitResp = true →
      (e = .other ∨ (∃ rc n p h, e = .asyncResponse rc n p h) ∨ (∃ h tc o n p, e = .asyncRequest h tc o n p)) →
      step s = .next (polled s)) ∧
    (s.phase = .asyncWait →
      (e = .other ∨ (∃ st t, e = .sent st t) ∨ (∃ w, e = .phyReceived w) ∨
        (∃ h tc o n p, e = .asyncRequest h tc o n p)) →
      step s = .next (polled s)) ∧
    (s.phase = .fcpWait → ¬ (s.flags.fcpAckDone = true ∧ s.flags.fcpReqDone = true) →
      (e = .other ∨ (∃ st t, e = .sent st t) ∨ (∃ w, e = .phyReceived w)) →
      step s = .next (polled s)) ∧
    (s.phase = .scanWait → s.scan.rxMask ≠ 0xFC →
      (e = .other ∨ (∃ t, e = .sent 0 t) ∨ (∃ rc n p h, e = .asyncResponse rc n p h) ∨
        (∃ h tc o n p, e = .asyncRequest h tc o n p)) →
      step s = .next (polled s))

/-! ## Async requests -/

/-- ASYNC_READ: the request registers, one submission stamped with GEN and no payload, ASYNC_WAIT. A 4-byte read at a
quadlet-aligned offset uses the quadlet tcode, any other the block tcode. -/
def Obligations.AsyncReadSubmits : Prop :=
  ∀ (s : State) (o : Offset) (len : BitVec 16) (op : Nat), s.phase ≠ .faulted → s.ctx.genValid = true →
    len.toNat ≤ s.params.maxPayload.toNat → submitAnswer s = .ok op →
    exec (.asyncRead o len) s = .next (asyncStarted 0x3
      { s.req with tcode := if len = 4 ∧ o.toNat % 4 = 0 then 0x4 else 0x5, offset := o, len := len } [] s)

/-- ASYNC_WRITE: as a read, with the write tcodes; the payload goes into REQ_PAYLOAD[0..n-1] and out with the
submission. The buffer's canonical form is the premise. -/
def Obligations.AsyncWriteSubmits : Prop :=
  ∀ (s : State) (o : Offset) (b : List Byte) (op : Nat), s.phase ≠ .faulted → s.ctx.genValid = true →
    b.length ≤ s.params.maxPayload.toNat → Memory.wf s.req.payload = true → submitAnswer s = .ok op →
    exec (.asyncWrite o b) s = .next (asyncStarted 0x4
      { s.req with tcode := if b.length = 4 ∧ o.toNat % 4 = 0 then 0x0 else 0x1, offset := o,
                   len := BitVec.ofNat 16 b.length, payload := writeBytes s.req.payload 0 b } b s)

/-- What ASYNC_WRITE, ASYNC_LOCK and SEND_FCP store, read back byte by byte: bytes 0 to n-1 are the payload, every
other byte of the buffer is as before; the buffer stays canonical. That the other bytes stay is the model's choice
(notes/assumptions/9.md). -/
def Obligations.PayloadStoreFrame : Prop :=
  ∀ (m : Memory) (b : List Byte), Memory.wf m = true →
    Memory.wf (writeBytes m 0 b) = true ∧
    (∀ a, readByte (writeBytes m 0 b) a = if h : a < b.length then b[a] else readByte m a) ∧
    readBytes (writeBytes m 0 b) 0 b.length = b

/-- Tcode selection from length and alignment. -/
def Obligations.TcodeSelection : Prop :=
  ∀ (o : Offset) (len : BitVec 16),
    selectReadTcode o len = (if len = 4 ∧ field (o.setWidth 32) 0 2 = 0 then 0x4 else 0x5) ∧
    selectWriteTcode o len = (if len = 4 ∧ field (o.setWidth 32) 0 2 = 0 then 0x0 else 0x1)

/-- An AsyncResponse with any rcode but GENERATION ends the command: status OK for COMPLETE, RemoteError with the raw
rcode for every other; the payload is returned as delivered; FAULT_CODE is not written. -/
def Obligations.AsyncTerminalResponse : Prop :=
  ∀ (s u : State) (rc : BitVec 5) (n : BitVec 16) (p : List Byte) (h : Nat), s.phase = .asyncWait →
    nextEvent s = .event (.asyncResponse rc n p h) u → rc ≠ 0x13 → Memory.wf s.resp.data = true →
    step s = .next (asyncFinished (if rc = 0 then 0 else 1) rc n p u)

/-- A GENERATION response while the retries are not used up makes the block submit the same request again, stamped
with the current GEN, and keep waiting; a refused resubmission is IoFailure. With a finite bound N used up, the next
GENERATION ends the command with RemoteError(GENERATION). -/
def Obligations.AsyncGenerationRetry : Prop :=
  ∀ (s u : State) (n : BitVec 16) (p : List Byte) (h : Nat), s.phase = .asyncWait →
    nextEvent s = .event (.asyncResponse 0x13 n p h) u →
    ((∀ k, s.params.maxGenRetries = some k → s.req.submits.toNat ≤ k) →
      (∀ op : Nat, submitAnswer u = .ok op →
        step s = .next { u with
          req := { s.req with gen := s.ctx.gen, submits := s.req.submits + 1 },
          subOut := s.subOut ++ [asyncRecord s.req (requestPayload s.req) s.ctx.gen],
          submitAnswers := s.submitAnswers.tail }) ∧
      (submitAnswer u = .rejected →
        step s = .next (faultedWith 2 3 .faulted { u with
          req := { s.req with gen := s.ctx.gen },
          subOut := s.subOut ++ [asyncRecord s.req (requestPayload s.req) s.ctx.gen],
          submitAnswers := s.submitAnswers.tail }))) ∧
    (∀ k, s.params.maxGenRetries = some k → k < s.req.submits.toNat → Memory.wf s.resp.data = true →
      step s = .next (asyncFinished 1 0x13 n p u))

/-- A run of the retry loop with no bound on the retries: after k GENERATION responses an async command still waits, with no
result given (so nothing bounds the wait, R609); with one COMPLETE more it ends OK. A command that had made m submissions
has then made m + k, all with the same tcode, offset, length and payload, and reports that count as INFO. -/
def Obligations.GenerationRetryRun : Prop :=
  ∀ (k : Nat) (s : State) (gs : List EventRecord) (r : EventRecord) (es : List PollAnswer) (ops : List Nat)
    (rest : List SubmitAnswer),
    s.phase = .asyncWait → s.params.maxGenRetries = none → Memory.wf s.resp.data = true →
    gs.length = k → (∀ g ∈ gs, validRecord s.params g ∧ g.type = 0x01 ∧ g.rcode = 0x13) →
    validRecord s.params r → r.type = 0x01 → r.rcode = 0 → r.payload.length < 2 ^ 16 →
    s.evtIn = gs.map PollAnswer.event ++ .event r :: es → ops.length = k → acceptsNext s ops rest →
    (∃ u, Host.Core.run Sys2Proof.core k s = .next u ∧ u.phase = .asyncWait ∧ u.resOut = s.resOut ∧
      u.req.submits = s.req.submits + BitVec.ofNat 32 k) ∧
    ∃ t, Host.Core.run Sys2Proof.core (k + 1) s = .next t ∧ t.phase = .idle ∧
      t.req.submits = s.req.submits + BitVec.ofNat 32 k ∧
      t.subOut = s.subOut ++ List.replicate k (asyncRecord s.req (requestPayload s.req) s.ctx.gen) ∧
      t.resOut = s.resOut ++ [resultWords 0 s.cmdOp 0 t.req.submits r.payload] ∧
      t.evtIn = es ∧ t.polls = s.polls + (k + 1) ∧ t.submitAnswers = rest ∧ t.ctx = s.ctx ∧ t.faultRegs = s.faultRegs

/-! ## Locks -/

/-- ENCODE_LOCK of all six kinds with accepted widths: the operands come back serialised, nothing is submitted, no
CONNECT is needed. -/
def Obligations.EncodeLockSerialises : Prop :=
  ∀ (s : State) (k : LockKind) (a b : List Byte), s.phase ≠ .faulted →
    (a.length = 4 ∨ a.length = 8) →
    (if k = .fetchAdd ∨ k = .littleAdd then b.length = 0 else b.length = a.length) →
    exec (encodeLockInstr k a b) s = .next { s with
      cmdOp := 0x6, phase := .idle, resOut := s.resOut ++ [resultWords 0 0x6 0 0 (a ++ b)] }

/-- ASYNC_LOCK of all six kinds: the lock tcode 0x11 to 0x16 in the order of the kinds, the serialised operands as
payload, any offset. -/
def Obligations.AsyncLockSubmits : Prop :=
  ∀ (s : State) (k : LockKind) (o : Offset) (a b : List Byte) (op : Nat), s.phase ≠ .faulted →
    s.ctx.genValid = true → (a.length = 4 ∨ a.length = 8) →
    (if k = .fetchAdd ∨ k = .littleAdd then b.length = 0 else b.length = a.length) →
    Memory.wf s.req.payload = true → submitAnswer s = .ok op →
    exec (asyncLockInstr k o a b) s = .next (asyncStarted 0x5
      { s.req with
        tcode := (match k with
          | .maskSwap => 0x11 | .compareSwap => 0x12 | .fetchAdd => 0x13
          | .littleAdd => 0x14 | .boundedAdd => 0x15 | .wrapAdd => 0x16),
        offset := o, len := BitVec.ofNat 16 (a.length + b.length),
        payload := writeBytes s.req.payload 0 (a ++ b) } (a ++ b) s)

/-- The operand checks of a lock, in their order, for both lock commands and all six kinds. -/
def Obligations.LockOperandFaults : Prop :=
  ∀ (s : State) (k : LockKind) (o : Offset) (a b : List Byte) (info : Word), s.phase ≠ .faulted →
    s.ctx.genValid = true →
    (if (if k = .fetchAdd ∨ k = .littleAdd then b.length ≠ 0 else b.length = 0) then info = 1
      else if a.length ≠ 4 ∧ a.length ≠ 8 then info = 2
      else if k ≠ .fetchAdd ∧ k ≠ .littleAdd ∧ b.length ≠ 4 ∧ b.length ≠ 8 then info = 2
      else k ≠ .fetchAdd ∧ k ≠ .littleAdd ∧ b.length ≠ a.length ∧ info = 3) →
    exec (encodeLockInstr k a b) s = .next (faultedWith 6 info .idle { s with cmdOp := 0x6 }) ∧
    exec (asyncLockInstr k o a b) s = .next (faultedWith 6 info .idle { s with cmdOp := 0x5 })

/-- The informative responder, for all six kinds: the old bytes are the response, the memory keeps its form and only the
operand-wide target changes, and the target then holds what R324 to R329 say, as numbers big-endian (little-endian for
LittleAdd) and modulo 256^w. No step runs it (notes/assumptions/18.md). -/
def Obligations.ResponderLocks : Prop :=
  (∀ (k : LockKind) (o : Offset) (a b old new : List Byte) (m x : Memory), Memory.wf m = true →
    (k ≠ .fetchAdd → k ≠ .littleAdd → b.length = a.length) →
    old = readBytes m o.toNat a.length → x = (respondLock k o a b m).1 → new = readBytes x o.toNat a.length →
    (respondLock k o a b m).2 = old ∧ Memory.wf x = true ∧
    (∀ j, j < o.toNat ∨ o.toNat + a.length ≤ j → readByte x j = readByte m j) ∧
    (match k with
      | .maskSwap => ∀ i, i < a.length → new.getD i 0 = b.getD i 0 ||| (old.getD i 0 &&& ~~~(a.getD i 0))
      | .compareSwap => new = if old = a then b else old
      | .fetchAdd => beValue new = (beValue old + beValue a) % 256 ^ a.length
      | .littleAdd => beValue new.reverse = (beValue old.reverse + beValue a.reverse) % 256 ^ a.length
      | .boundedAdd => if old = a then new = old else beValue new = (beValue old + beValue b) % 256 ^ a.length
      | .wrapAdd => if old = a then new = b else beValue new = (beValue old + beValue b) % 256 ^ a.length)) ∧
  lockResult .fetchAdd [0xFF, 0xFF, 0xFF, 0xFF] [0, 0, 0, 1] [] = [0, 0, 0, 0]

/-! ## FCP -/

/-- SEND_FCP: the response range is allocated first unless it already is, then the command goes out once as an async
write to P_FCP_CMD_ADDR, and the block waits. -/
def Obligations.SendFcpStarts : Prop :=
  ∀ (s : State) (b : List Byte), s.phase ≠ .faulted → s.ctx.genValid = true →
    b.length ≤ s.params.maxPayload.toNat → Memory.wf s.req.payload = true →
    let r : Request :=
      { s.req with tcode := if b.length = 4 ∧ s.params.fcpCmdAddr.toNat % 4 = 0 then 0x0 else 0x1,
                   offset := s.params.fcpCmdAddr, len := BitVec.ofNat 16 b.length,
                   payload := writeBytes s.req.payload 0 b }
    let v : State := { s with cmdOp := 0xA, phase := .fcpWait,
                              flags := { s.flags with fcpAckDone := false, fcpReqDone := false },
                              fcp := { s.fcp with ackRcode := 0, replyLen := 0 },
                              req := { r with gen := s.ctx.gen, submits := 1 } }
    (∀ op : Nat, s.ctx.fcpRangeValid = true → submitAnswer s = .ok op →
      exec (.sendFcp b) s = .next { v with
        subOut := s.subOut ++ [asyncRecord r b s.ctx.gen], submitAnswers := s.submitAnswers.tail }) ∧
    (∀ op op' : Nat, s.ctx.fcpRangeValid = false → submitAnswer s = .ok op →
      submitAnswer (s.putSub (.allocate s.params.fcpRespAddr s.params.fcpRespLen)) = .ok op' →
      exec (.sendFcp b) s = .next { v with
        ctx := { s.ctx with fcpRangeValid := true, fcpRangeBase := s.params.fcpRespAddr,
                            fcpRangeLen := s.params.fcpRespLen },
        subOut := s.subOut ++ [.allocate s.params.fcpRespAddr s.params.fcpRespLen, asyncRecord r b s.ctx.gen],
        submitAnswers := s.submitAnswers.tail.tail })

/-- The FCP write's own response: the first COMPLETE one is noted, a second response of any rcode is discarded, a
non-COMPLETE first one (GENERATION too) ends the exchange with RemoteError and no resubmission. -/
def Obligations.FcpAck : Prop :=
  ∀ (s u : State) (rc : BitVec 5) (n : BitVec 16) (p : List Byte) (h : Nat), s.phase = .fcpWait →
    nextEvent s = .event (.asyncResponse rc n p h) u →
    (s.flags.fcpAckDone = true → s.flags.fcpReqDone = false → step s = .next (polled s)) ∧
    (s.flags.fcpAckDone = false → rc = 0 →
      step s = .next (fcpFinishedIfDone { u with
        fcp := { s.fcp with ackRcode := 0 }, flags := { s.flags with fcpAckDone := true } })) ∧
    (s.flags.fcpAckDone = false → rc ≠ 0 →
      step s = .next (fcpFinished 1 { u with fcp := { s.fcp with ackRcode := rc } }))

/-- The peer's request: out of the allocated range it is discarded with no answer; in range it is answered COMPLETE at
once, and the first one's payload is kept as the reply. That the range's end is a sum without a wrap at 2^48 is the
model's reading (notes/assumptions/15.md, DEDUCED). -/
def Obligations.FcpReply : Prop :=
  ∀ (s u : State) (h : Nat) (tc : BitVec 5) (o : Offset) (m : BitVec 16) (p : List Byte), s.phase = .fcpWait →
    nextEvent s = .event (.asyncRequest h tc o m p) u →
    ¬ (s.flags.fcpAckDone = true ∧ s.flags.fcpReqDone = true) →
    (¬ (s.ctx.fcpRangeBase.toNat ≤ o.toNat ∧ o.toNat < s.ctx.fcpRangeBase.toNat + s.ctx.fcpRangeLen.toNat) →
      step s = .next (polled s)) ∧
    (s.ctx.fcpRangeBase.toNat ≤ o.toNat → o.toNat < s.ctx.fcpRangeBase.toNat + s.ctx.fcpRangeLen.toNat →
      let v : State := { u with subOut := s.subOut ++ [.response h 0 []], submitAnswers := s.submitAnswers.tail }
      (∀ op : Nat, submitAnswer u = .ok op → s.flags.fcpReqDone = false →
        step s = .next (fcpFinishedIfDone { v with
          fcp := { s.fcp with reply := writeBytes s.fcp.reply 0 p, replyLen := m },
          flags := { s.flags with fcpReqDone := true } })) ∧
      (∀ op : Nat, submitAnswer u = .ok op → s.flags.fcpReqDone = true → step s = .next v) ∧
      (submitAnswer u = .rejected → step s = .next (faultedWith 2 3 .faulted v)))

/-! ## The remote PHY scan -/

/-- SCAN_PHY_REGS: reception is armed unless it already is, then the six access packets for registers 2 to 7 go out in
that order, each with its complement and the current GEN, and the block waits. -/
def Obligations.ScanStarts : Prop :=
  ∀ (s : State) (phy : BitVec 6) (ops : List Nat) (rest : List SubmitAnswer), s.phase ≠ .faulted →
    s.ctx.genValid = true →
    (s.ctx.phyRxEn = true → ops.length = 6 → acceptsNext s ops rest →
      exec (.scanPhyRegs phy) s = .next { scanStarted phy s with
        subOut := s.subOut ++ [2, 3, 4, 5, 6, 7].map (scanPacket phy s.ctx.gen), submitAnswers := rest }) ∧
    (s.ctx.phyRxEn = false → ops.length = 7 → acceptsNext s ops rest →
      exec (.scanPhyRegs phy) s = .next { scanStarted phy s with
        ctx := { s.ctx with phyRxEn := true },
        subOut := s.subOut ++ (.enablePhyRx :: [2, 3, 4, 5, 6, 7].map (scanPacket phy s.ctx.gen)),
        submitAnswers := rest })

/-- The scan's reply predicate: mask 0xFFFFF800 and bits (phy << 24) | 0x001C8000. It fixes class, phy id, type 7,
page 1 and port 0, and leaves register and value free. -/
def Obligations.ScanReplyPredicate : Prop :=
  ∀ (phy : BitVec 6) (w : Word),
    scanMask = 0xFFFFF800 ∧ scanBits phy = (phy.setWidth 32 <<< 24) ||| 0x001C8000#32 ∧
    (matchesPending { mask := scanMask, bits := scanBits phy } w = true ↔
      field w 30 2 = 0 ∧ field w 24 6 = phy ∧ field w 22 2 = 0 ∧ field w 18 4 = 0x7 ∧ field w 15 3 = 1 ∧
        field w 11 4 = 0)

/-- A Sent event with a non-COMPLETE status in SCAN_WAIT is the fatal IoFailure(SEND_FAILED). A received word: a reply
for registers 2 to 7 stores its value and sets its RX_MASK bit, a duplicate overwrites; anything else is discarded;
the scan ends OK when RX_MASK is 0xFC. -/
def Obligations.ScanEvents : Prop :=
  (∀ (s u : State) (status : BitVec 5) (ticks : Word), s.phase = .scanWait →
    nextEvent s = .event (.sent status ticks) u → status ≠ 0 → step s = .next (faultedWith 2 4 .faulted u)) ∧
  ∀ (s u : State) (w : Word), s.phase = .scanWait → nextEvent s = .event (.phyReceived w) u →
    s.scan.rxMask ≠ 0xFC →
    (w &&& s.pending.mask ≠ s.pending.bits ∨ (field w 8 3).toNat < 2 →
      step s = .next (polled s)) ∧
    (w &&& s.pending.mask = s.pending.bits → 2 ≤ (field w 8 3).toNat →
      let r := (field w 8 3).toNat
      let v : Byte := field w 0 8
      let c : Scan :=
        { s.scan with
          rxMask := s.scan.rxMask ||| (1#8 <<< r),
          regs := { r2 := if r = 2 then v else s.scan.regs.r2, r3 := if r = 3 then v else s.scan.regs.r3,
                    r4 := if r = 4 then v else s.scan.regs.r4, r5 := if r = 5 then v else s.scan.regs.r5,
                    r6 := if r = 6 then v else s.scan.regs.r6, r7 := if r = 7 then v else s.scan.regs.r7 } }
      step s = .next (if c.rxMask = 0xFC then
        { u with scan := c, phase := .idle,
                 resOut := s.resOut ++ [resultWords 0 s.cmdOp 0 0xFC
                   [c.regs.r2, c.regs.r3, c.regs.r4, c.regs.r5, c.regs.r6, c.regs.r7]] }
        else { u with scan := c }))

/-! ## Self-ID -/

/-- DECODE_SELF_ID of a 1- to 3-word chain: INFO is the words consumed, F0 the masked first word, F1 the ports; any
other count is BAD_CHAIN_LENGTH. Words consumed: up to the first word whose bit 0 is clear. The sixteen port fields of
F1 come from their places in the consumed words. -/
def Obligations.DecodeSelfIdResult : Prop :=
  ∀ (s : State) (n : BitVec 16) (ws : List Word), s.phase ≠ .faulted →
    (1 ≤ n.toNat → n.toNat ≤ 3 → ws.length = n.toNat →
      ∃ k, 1 ≤ k ∧ k ≤ n.toNat ∧
        (∀ j, j + 1 < k → field (ws.getD j 0) 0 1 = 1) ∧ (k < n.toNat → field (ws.getD (k - 1) 0) 0 1 = 0) ∧
        exec (.decodeSelfId n ws) s = .next { s with
          cmdOp := 0x7, phase := .idle,
          resOut := s.resOut ++ [[0x07000008, BitVec.ofNat 32 k, ws.getD 0 0 &&& 0x3F7FCF02, chainPorts k ws]] }) ∧
    (¬ (1 ≤ n.toNat ∧ n.toNat ≤ 3) →
      exec (.decodeSelfId n ws) s = .next (faultedWith 7 5 .idle { s with cmdOp := 0x7 })) ∧
    (∀ k p : Nat, p < 16 → field (chainPorts k ws) (30 - 2 * p) 2 =
      (if p < 3 then field (ws.getD 0 0) (6 - 2 * p) 2
       else if p < 11 then (if 2 ≤ k then field (ws.getD 1 0) (17 - 2 * (p - 3) - 1) 2 else 0)
       else (if 3 ≤ k then field (ws.getD 2 0) (17 - 2 * (p - 11) - 1) 2 else 0)))

/-- ENCODE_SELF_ID: the chain words of accepted fields, as R427 writes them; a bad count, a reserved F0 bit or a state
of a port the chain cannot carry is refused, the count first. -/
def Obligations.EncodeSelfIdResult : Prop :=
  ∀ (s : State) (n : BitVec 16) (f0 f1 : Word), s.phase ≠ .faulted →
    (¬ (1 ≤ n.toNat ∧ n.toNat ≤ 3) →
      exec (.encodeSelfId n f0 f1) s = .next (faultedWith 7 5 .idle { s with cmdOp := 0x8 })) ∧
    (1 ≤ n.toNat → n.toNat ≤ 3 →
      let carried : Word := if n = 1 then 0xFC000000 else if n = 2 then 0xFFFFFC00 else 0xFFFFFFFF
      (f0 &&& ~~~(0x3F7FCF02 : Word) ≠ 0 ∨ f1 &&& ~~~carried ≠ 0 →
        exec (.encodeSelfId n f0 f1) s = .next (faultedWith 7 2 .idle { s with cmdOp := 0x8 })) ∧
      (f0 &&& ~~~(0x3F7FCF02 : Word) = 0 → f1 &&& ~~~carried = 0 →
        exec (.encodeSelfId n f0 f1) s = .next { s with
          cmdOp := 0x8, phase := .idle,
          resOut := s.resOut ++ [(0x08000000 ||| BitVec.ofNat 32 (4 * n.toNat)) :: 0 ::
            (selfIdWords n.toNat f0 f1).take n.toNat] }))

/-- The Self-ID round trip: for every count 1 to 3 and every fields record ENCODE_SELF_ID accepts, DECODE_SELF_ID of its
words gives the count and the same record back. -/
def Obligations.SelfIdRoundTrip : Prop :=
  ∀ (s : State) (n : BitVec 16) (f0 f1 : Word), s.phase ≠ .faulted → 1 ≤ n.toNat → n.toNat ≤ 3 →
    f0 &&& ~~~(0x3F7FCF02 : Word) = 0 →
    f1 &&& ~~~(if n = 1 then 0xFC000000 else if n = 2 then 0xFFFFFC00 else 0xFFFFFFFF : Word) = 0 →
    exec (.decodeSelfId n ((selfIdWords n.toNat f0 f1).take n.toNat)) s = .next { s with
      cmdOp := 0x7, phase := .idle, resOut := s.resOut ++ [[0x07000008, n.setWidth 32, f0, f1]] }

/-! ## Reset and invariants -/

/-- Reset from any state gives every register the value the spec states (R600) and keeps only the parameters (the
model's choice, notes/assumptions/22.md). -/
def Obligations.ResetValues : Prop :=
  ∀ s t : State, t = applyReset s →
    t.phase = .idle ∧ t.ctx.genValid = false ∧ t.ctx.phyRxEn = false ∧ t.ctx.fcpRangeValid = false ∧
    t.flags = { awaitSent := false, awaitResp := false, rttValid := false, fcpAckDone := false, fcpReqDone := false } ∧
    t.pending = { mask := 0, bits := 0 } ∧ t.req.submits = 0 ∧ t.chain.len = 0 ∧ t.scan.rxMask = 0 ∧
    t.phyRes.lastResp = 0 ∧ t.faultRegs = { code := 0, info := 0 } ∧ t.params = s.params ∧
    (∀ s', s'.params = s.params → applyReset s' = t)

/-- The invariant holds at reset. -/
def Obligations.InvAtReset : Prop := State.Inv State.reset

/-- Every step keeps the invariant of Safety.lean. -/
def Obligations.StepKeepsInv : Prop :=
  ∀ s t : State, State.Inv s → step s = .next t → State.Inv t

/-- PHY_RX_EN, FCP_RANGE_VALID and GEN_VALID are never cleared by a step, the parameters never change, and RES_OUT and
SUB_OUT, the model's lists of all that was put out (notes/assumptions/8.md), only grow. -/
def Obligations.StickyStateAndGrowingPorts : Prop :=
  ∀ s t : State, step s = .next t →
    (s.ctx.phyRxEn = true → t.ctx.phyRxEn = true) ∧ (s.ctx.fcpRangeValid = true → t.ctx.fcpRangeValid = true) ∧
    (s.ctx.genValid = true → t.ctx.genValid = true) ∧ t.params = s.params ∧
    (∃ rs, t.resOut = s.resOut ++ rs) ∧ (∃ ss, t.subOut = s.subOut ++ ss)

/-- Every PHY packet and async request that a step submits carries the generation that is cached when the step ends: no
submission carries an older one. -/
def Obligations.SubmissionsCarryCurrentGeneration : Prop :=
  ∀ (s t : State) (ss : List Submission), step s = .next t → t.subOut = s.subOut ++ ss →
    (∀ d0 d1 g, Submission.phy d0 d1 g ∈ ss → g = t.ctx.gen) ∧
    (∀ tc o n p g bc, Submission.async tc o n p g bc ∈ ss → g = t.ctx.gen ∧ bc = false)
end

