-- ==== Sys2Proof/Laws/Bits.lean ====
section
/-! SUPPORT. The laws of byte order and payload packing. -/

namespace Sys2Proof

theorem getLsbD_place {n : Nat} (v : BitVec n) (lo i : Nat) :
    (place v lo).getLsbD i = (decide (i < 32) && decide (lo ≤ i) && v.getLsbD (i - lo)) := by
  simp only [place, BitVec.getLsbD_shiftLeft, BitVec.getLsbD_setWidth]
  by_cases h2 : lo ≤ i
  · by_cases h : i < 32
    · simp [h, h2, show i - lo < 32 by omega, show ¬ i < lo by omega]
    · simp [h]
  · simp [h2, show i < lo by omega]

theorem getLsbD_field (v : Word) (lo n i : Nat) : (field v lo n).getLsbD i = (decide (i < n) && v.getLsbD (lo + i)) := by
  simp [field, BitVec.getLsbD_extractLsb']

/-- A field of a bitwise or. -/
@[simp] theorem field_or (v w : Word) (lo n : Nat) : field (v ||| w) lo n = field v lo n ||| field w lo n := by
  apply BitVec.eq_of_getLsbD_eq
  intro i hi
  simp only [getLsbD_field, BitVec.getLsbD_or, hi, decide_true, Bool.true_and]

/-- A placed value read back at its own place. -/
theorem field_place_same {n : Nat} (v : BitVec n) {lo : Nat} (h : lo + n ≤ 32) : field (place v lo) lo n = v := by
  apply BitVec.eq_of_getLsbD_eq
  intro i hi
  simp only [getLsbD_field, getLsbD_place]
  simp [hi, show lo + i < 32 by omega]

/-- A field that a placed value does not reach reads 0. -/
theorem field_place_disjoint {n m : Nat} (v : BitVec n) {lo lo' : Nat} (h : lo' + m ≤ lo ∨ lo + n ≤ lo') :
    field (place v lo) lo' m = 0 := by
  apply BitVec.eq_of_getLsbD_eq
  intro i hi
  simp only [getLsbD_field, getLsbD_place]
  by_cases h1 : lo ≤ lo' + i
  · rw [BitVec.getLsbD_of_ge v _ (show n ≤ lo' + i - lo by omega)]
    simp
  · simp [h1]

theorem wordBytes_beWord (a b c d : Byte) : wordBytes (beWord a b c d) = [a, b, c, d] := by
  simp [wordBytes, beWord, field_place_same, field_place_disjoint]

theorem beWord_wordBytes (w : Word) : beWord (field w 24 8) (field w 16 8) (field w 8 8) (field w 0 8) = w := by
  apply BitVec.eq_of_getLsbD_eq
  intro i hi
  simp only [beWord, BitVec.getLsbD_or, getLsbD_place, getLsbD_field]
  by_cases h1 : 24 ≤ i
  · simp [hi, h1, show ¬ i - 16 < 8 by omega, show ¬ i - 8 < 8 by omega, show ¬ i < 8 by omega,
      show i - 24 < 8 by omega, show 24 + (i - 24) = i by omega]
  · by_cases h2 : 16 ≤ i
    · simp [hi, h1, h2, show i - 16 < 8 by omega, show ¬ i - 8 < 8 by omega, show ¬ i < 8 by omega,
        show 16 + (i - 16) = i by omega]
    · by_cases h3 : 8 ≤ i
      · simp [hi, h1, h2, h3, show i - 8 < 8 by omega, show ¬ i < 8 by omega, show 8 + (i - 8) = i by omega]
      · simp [hi, h1, h2, h3, show i < 8 by omega]

theorem wordBytes_length (w : Word) : (wordBytes w).length = 4 := rfl

theorem bytesOf_length (ws : List Word) : (bytesOf ws).length = 4 * ws.length := by
  induction ws with
  | nil => rfl
  | cons w ws ih => simp only [bytesOf, List.length_append, wordBytes_length, ih, List.length_cons]; omega

theorem bytesOf_append (ws vs : List Word) : bytesOf (ws ++ vs) = bytesOf ws ++ bytesOf vs := by
  induction ws with
  | nil => rfl
  | cons w ws ih => simp [bytesOf, ih]

theorem packBytes_length : ∀ bs : List Byte, (packBytes bs).length = wordsFor bs.length
  | [] => rfl
  | [_] => by simp [packBytes, wordsFor]
  | [_, _] => by simp [packBytes, wordsFor]
  | [_, _, _] => by simp [packBytes, wordsFor]
  | _ :: _ :: _ :: _ :: rest => by
    simp only [packBytes, List.length_cons, packBytes_length rest, wordsFor]; omega

/-- The packed words hold the payload, then padding (30_encoding.md R122). -/
theorem bytesOf_packBytes : ∀ bs : List Byte, ∃ pad, bytesOf (packBytes bs) = bs ++ pad
  | [] => ⟨[], rfl⟩
  | [a] => ⟨[0, 0, 0], by simp [packBytes, bytesOf, wordBytes_beWord]⟩
  | [a, b] => ⟨[0, 0], by simp [packBytes, bytesOf, wordBytes_beWord]⟩
  | [a, b, c] => ⟨[0], by simp [packBytes, bytesOf, wordBytes_beWord]⟩
  | a :: b :: c :: d :: rest => by
    obtain ⟨pad, h⟩ := bytesOf_packBytes rest
    exact ⟨pad, by simp [packBytes, bytesOf, wordBytes_beWord, h]⟩

/-- Unpacking packed bytes gives them back, whatever words follow. -/
theorem unpackBytes_packBytes (bs : List Byte) (ws : List Word) :
    unpackBytes bs.length (packBytes bs ++ ws) = bs := by
  obtain ⟨pad, h⟩ := bytesOf_packBytes bs
  simp [unpackBytes, bytesOf_append, h]

theorem unpackBytes_length (n : Nat) (ws : List Word) : (unpackBytes n ws).length = min n (4 * ws.length) := by
  simp [unpackBytes, bytesOf_length]

/-- Packing whole words' bytes gives the words back. -/
theorem packBytes_bytesOf : ∀ ws : List Word, packBytes (bytesOf ws) = ws
  | [] => rfl
  | w :: ws => by
    simp only [bytesOf, wordBytes, List.cons_append, List.nil_append, packBytes, beWord_wordBytes,
      packBytes_bytesOf ws]

end Sys2Proof
end

