-- ==== Sys2Proof/Laws/Decode.lean ====
section
/-! SUPPORT. The fields of an encoded header, and the record length they give (30_encoding.md R121-R125). -/

namespace Sys2Proof

@[simp] theorem headerOpc_header (o s : BitVec 4) (a : BitVec 16) : headerOpc (header o s a) = o := by
  simp [headerOpc, header, field_place_same, field_place_disjoint]

@[simp] theorem headerSub_header (o s : BitVec 4) (a : BitVec 16) : headerSub (header o s a) = s := by
  simp [headerSub, header, field_place_same, field_place_disjoint]

@[simp] theorem headerRsv_header (o s : BitVec 4) (a : BitVec 16) : headerRsv (header o s a) = 0 := by
  simp [headerRsv, header, field_place_disjoint]

@[simp] theorem headerArg_header (o s : BitVec 4) (a : BitVec 16) : headerArg (header o s a) = a := by
  simp [headerArg, header, field_place_same, field_place_disjoint]

/-- A field of `ARG`, read from the header. -/
theorem field_header_arg (o s : BitVec 4) (a : BitVec 16) {lo n : Nat} (h : lo + n ≤ 16) :
    field (header o s a) lo n = a.extractLsb' lo n := by
  have h1 : field (place o 28) lo n = 0 := field_place_disjoint o (by omega)
  have h2 : field (place s 24) lo n = 0 := field_place_disjoint s (by omega)
  simp only [header, field_or, h1, h2]
  apply BitVec.eq_of_getLsbD_eq
  intro i hi
  simp only [BitVec.getLsbD_or, getLsbD_field, getLsbD_place, BitVec.getLsbD_extractLsb']
  simp [hi, show lo + i < 32 by omega]

theorem headerW1_widths (o s : BitVec 4) {a b : List Byte} (h : operandsFit a b = true) :
    headerW1 (header o s (widthsArg a b)) = a.length := by
  simp only [operandsFit, Bool.and_eq_true, decide_eq_true_eq] at h
  rw [headerW1, field_header_arg o s _ (by omega), widthsArg]
  simp only [BitVec.extractLsb'_toNat, BitVec.toNat_or, BitVec.toNat_shiftLeft, BitVec.toNat_ofNat,
    Nat.shiftLeft_eq]
  rw [Nat.mod_eq_of_lt (show a.length < 2 ^ 16 by omega), Nat.mod_eq_of_lt (show b.length < 2 ^ 16 by omega),
    Nat.mod_eq_of_lt (show a.length * 2 ^ 8 < 2 ^ 16 by omega), Nat.mul_comm,
    ← Nat.two_pow_add_eq_or_of_lt h.2, Nat.shiftRight_eq_div_pow]
  omega

theorem headerW2_widths (o s : BitVec 4) {a b : List Byte} (h : operandsFit a b = true) :
    headerW2 (header o s (widthsArg a b)) = b.length := by
  simp only [operandsFit, Bool.and_eq_true, decide_eq_true_eq] at h
  rw [headerW2, field_header_arg o s _ (by omega), widthsArg]
  simp only [BitVec.extractLsb'_toNat, BitVec.toNat_or, BitVec.toNat_shiftLeft, BitVec.toNat_ofNat,
    Nat.shiftLeft_eq]
  rw [Nat.mod_eq_of_lt (show a.length < 2 ^ 16 by omega), Nat.mod_eq_of_lt (show b.length < 2 ^ 16 by omega),
    Nat.mod_eq_of_lt (show a.length * 2 ^ 8 < 2 ^ 16 by omega), Nat.mul_comm,
    ← Nat.two_pow_add_eq_or_of_lt h.2, Nat.shiftRight_eq_div_pow]
  omega

theorem lengthArg_toNat {b : List Byte} (h : payloadFits b = true) : (lengthArg b).toNat = b.length := by
  simp only [payloadFits, decide_eq_true_eq] at h
  rw [lengthArg, BitVec.toNat_ofNat, Nat.mod_eq_of_lt h]

/-- An offset read back from its two operand words (30_encoding.md R123). -/
theorem offsetOf_offsetWords (o : Offset) : offsetOf (place (o.extractLsb' 32 16) 0) (o.extractLsb' 0 32) = o := by
  apply BitVec.eq_of_getLsbD_eq
  intro i hi
  rw [offsetOf, field_place_same _ (by omega)]
  simp only [BitVec.getLsbD_or, BitVec.getLsbD_shiftLeft, BitVec.getLsbD_setWidth, BitVec.getLsbD_extractLsb']
  by_cases h : 32 ≤ i
  · simp [hi, show ¬ i < 32 by omega, show i - 32 < 48 by omega, show i - 32 < 16 by omega,
      show 32 + (i - 32) = i by omega]
  · simp [hi, show i < 32 by omega]

/-- The reserved half of an encoded `OFF_HI` is 0 (30_encoding.md R123). -/
theorem offHi_reserved (o : Offset) : field (place (o.extractLsb' 32 16) 0) 16 16 = 0 :=
  field_place_disjoint _ (by omega)

/-- A whole record at the head of a stream is framed as header, operand words, rest (30_encoding.md R125). -/
theorem frame_record {h : Word} {ops : List Word} (hl : operandCount h = ops.length) (rest : List Word) :
    frame (h :: (ops ++ rest)) = some (h, ops, rest) := by
  simp [frame, hl]

/-- Framing splits a stream into header, its operand words, and the rest, losing no word. -/
theorem frame_eq_some {ws : List Word} {h : Word} {ops rest : List Word} (hf : frame ws = some (h, ops, rest)) :
    ws = h :: (ops ++ rest) ∧ ops.length = operandCount h := by
  cases ws with
  | nil => simp [frame] at hf
  | cons w t =>
    simp only [frame] at hf
    split at hf
    · next hle =>
      simp only [Option.some.injEq, Prod.mk.injEq] at hf
      obtain ⟨rfl, rfl, rfl⟩ := hf
      exact ⟨by simp, by simp [hle]⟩
    · cases hf

/-- Taking the first record of a stream apart. -/
theorem decode_eq_some {ws rest : List Word} {d : Decoded} (h : decode ws = some (d, rest)) :
    ∃ w ops, ws = w :: (ops ++ rest) ∧ ops.length = operandCount w ∧ d = decodeRecord w ops := by
  simp only [decode] at h
  split at h
  · next w ops r hf =>
    simp only [Option.some.injEq, Prod.mk.injEq] at h
    obtain ⟨rfl, rfl⟩ := h
    exact ⟨w, ops, (frame_eq_some hf).1, (frame_eq_some hf).2, rfl⟩
  · cases h

/-- A header without reserved bits is made of its fields (30_encoding.md R121). -/
theorem header_of_fields {h : Word} (hr : headerRsv h = 0) : header (headerOpc h) (headerSub h) (headerArg h) = h := by
  apply BitVec.eq_of_getLsbD_eq
  intro i hi
  have := congrArg (fun v => v.getLsbD (i - 16)) hr
  simp only [headerRsv, getLsbD_field] at this
  simp only [header, headerOpc, headerSub, headerArg, BitVec.getLsbD_or, getLsbD_place, getLsbD_field]
  by_cases h1 : 28 ≤ i
  · simp [hi, h1, show ¬ i - 24 < 4 by omega, show ¬ i < 16 by omega, show i - 28 < 4 by omega,
      show 28 + (i - 28) = i by omega, -BitVec.getLsbD_eq_getElem]
  by_cases h2 : 24 ≤ i
  · simp [hi, h1, h2, show ¬ i < 16 by omega, show i - 24 < 4 by omega, show 24 + (i - 24) = i by omega,
      -BitVec.getLsbD_eq_getElem]
  by_cases h3 : 16 ≤ i
  · simp [show i - 16 < 8 by omega, show 16 + (i - 16) = i by omega, -BitVec.getLsbD_eq_getElem] at this
    simp [hi, h1, h2, show ¬ i < 16 by omega, this, -BitVec.getLsbD_eq_getElem]
  · simp [hi, h1, h2, show i < 16 by omega, -BitVec.getLsbD_eq_getElem]

/-- The operand words of an offset, read back from the offset (30_encoding.md R123). -/
theorem offsetWords_offsetOf {hi lo : Word} (h : field hi 16 16 = 0) : offsetWords (offsetOf hi lo) = [hi, lo] := by
  unfold offsetWords offsetOf
  have h1 : place (((field hi 0 16).setWidth 48 <<< 32 ||| lo.setWidth 48).extractLsb' 32 16) 0 = hi := by
    apply BitVec.eq_of_getLsbD_eq
    intro i hlt
    have := congrArg (fun v => v.getLsbD (i - 16)) h
    simp only [getLsbD_field] at this
    simp only [getLsbD_place, BitVec.getLsbD_extractLsb', BitVec.getLsbD_or, BitVec.getLsbD_shiftLeft,
      BitVec.getLsbD_setWidth, getLsbD_field]
    by_cases h2 : i < 16
    · simp [hlt, h2, show 32 + i < 48 by omega, show ¬ 32 + i < 32 by omega, show i < 48 by omega,
        -BitVec.getLsbD_eq_getElem]
    · simp [show i - 16 < 16 by omega, show 16 + (i - 16) = i by omega, -BitVec.getLsbD_eq_getElem] at this
      simp [hlt, h2, this, -BitVec.getLsbD_eq_getElem]
  have h2 : ((field hi 0 16).setWidth 48 <<< 32 ||| lo.setWidth 48).extractLsb' 0 32 = lo := by
    apply BitVec.eq_of_getLsbD_eq
    intro i hlt
    simp only [BitVec.getLsbD_extractLsb', BitVec.getLsbD_or, BitVec.getLsbD_shiftLeft, BitVec.getLsbD_setWidth]
    simp [hlt, -BitVec.getLsbD_eq_getElem]
    omega
  rw [h1, h2]

/-- The operands of a lock, read back from their packed words (30_encoding.md R124). -/
theorem lockOps_packed {a b : List Byte} (o s : BitVec 4) (h : operandsFit a b = true) :
    lockOp1 (header o s (widthsArg a b)) (packBytes (a ++ b)) = a ∧
      lockOp2 (header o s (widthsArg a b)) (packBytes (a ++ b)) = b := by
  have h0 := unpackBytes_packBytes (a ++ b) []
  simp only [List.append_nil, List.length_append] at h0
  have h1 : unpackBytes a.length (packBytes (a ++ b)) = a := by
    obtain ⟨pad, hp⟩ := bytesOf_packBytes (a ++ b)
    simp [unpackBytes, hp]
  unfold lockOp1 lockOp2
  rw [headerW1_widths _ _ h, headerW2_widths _ _ h, h0, h1]
  simp

end Sys2Proof
end

