-- ==== Sys2Proof/Laws/State.lean ====
section
/-! SUPPORT. What each update of State does to each field of State: one lemma per field per update. -/

namespace Sys2Proof.Machine

@[simp] theorem setPhase_phase (s : State) (x : Phase) : (s.setPhase x).phase = x := rfl
@[simp] theorem setPhase_cmdOp (s : State) (x : Phase) : (s.setPhase x).cmdOp = s.cmdOp := rfl
@[simp] theorem setPhase_ctx (s : State) (x : Phase) : (s.setPhase x).ctx = s.ctx := rfl
@[simp] theorem setPhase_flags (s : State) (x : Phase) : (s.setPhase x).flags = s.flags := rfl
@[simp] theorem setPhase_pending (s : State) (x : Phase) : (s.setPhase x).pending = s.pending := rfl
@[simp] theorem setPhase_req (s : State) (x : Phase) : (s.setPhase x).req = s.req := rfl
@[simp] theorem setPhase_resp (s : State) (x : Phase) : (s.setPhase x).resp = s.resp := rfl
@[simp] theorem setPhase_chain (s : State) (x : Phase) : (s.setPhase x).chain = s.chain := rfl
@[simp] theorem setPhase_scan (s : State) (x : Phase) : (s.setPhase x).scan = s.scan := rfl
@[simp] theorem setPhase_fcp (s : State) (x : Phase) : (s.setPhase x).fcp = s.fcp := rfl
@[simp] theorem setPhase_phyRes (s : State) (x : Phase) : (s.setPhase x).phyRes = s.phyRes := rfl
@[simp] theorem setPhase_faultRegs (s : State) (x : Phase) : (s.setPhase x).faultRegs = s.faultRegs := rfl
@[simp] theorem setPhase_cmdIn (s : State) (x : Phase) : (s.setPhase x).cmdIn = s.cmdIn := rfl
@[simp] theorem setPhase_evtIn (s : State) (x : Phase) : (s.setPhase x).evtIn = s.evtIn := rfl
@[simp] theorem setPhase_resOut (s : State) (x : Phase) : (s.setPhase x).resOut = s.resOut := rfl
@[simp] theorem setPhase_subOut (s : State) (x : Phase) : (s.setPhase x).subOut = s.subOut := rfl
@[simp] theorem setPhase_submitAnswers (s : State) (x : Phase) : (s.setPhase x).submitAnswers = s.submitAnswers := rfl
@[simp] theorem setPhase_infoAnswers (s : State) (x : Phase) : (s.setPhase x).infoAnswers = s.infoAnswers := rfl
@[simp] theorem setPhase_polls (s : State) (x : Phase) : (s.setPhase x).polls = s.polls := rfl
@[simp] theorem setPhase_params (s : State) (x : Phase) : (s.setPhase x).params = s.params := rfl

@[simp] theorem setCmdOp_phase (s : State) (x : BitVec 4) : (s.setCmdOp x).phase = s.phase := rfl
@[simp] theorem setCmdOp_cmdOp (s : State) (x : BitVec 4) : (s.setCmdOp x).cmdOp = x := rfl
@[simp] theorem setCmdOp_ctx (s : State) (x : BitVec 4) : (s.setCmdOp x).ctx = s.ctx := rfl
@[simp] theorem setCmdOp_flags (s : State) (x : BitVec 4) : (s.setCmdOp x).flags = s.flags := rfl
@[simp] theorem setCmdOp_pending (s : State) (x : BitVec 4) : (s.setCmdOp x).pending = s.pending := rfl
@[simp] theorem setCmdOp_req (s : State) (x : BitVec 4) : (s.setCmdOp x).req = s.req := rfl
@[simp] theorem setCmdOp_resp (s : State) (x : BitVec 4) : (s.setCmdOp x).resp = s.resp := rfl
@[simp] theorem setCmdOp_chain (s : State) (x : BitVec 4) : (s.setCmdOp x).chain = s.chain := rfl
@[simp] theorem setCmdOp_scan (s : State) (x : BitVec 4) : (s.setCmdOp x).scan = s.scan := rfl
@[simp] theorem setCmdOp_fcp (s : State) (x : BitVec 4) : (s.setCmdOp x).fcp = s.fcp := rfl
@[simp] theorem setCmdOp_phyRes (s : State) (x : BitVec 4) : (s.setCmdOp x).phyRes = s.phyRes := rfl
@[simp] theorem setCmdOp_faultRegs (s : State) (x : BitVec 4) : (s.setCmdOp x).faultRegs = s.faultRegs := rfl
@[simp] theorem setCmdOp_cmdIn (s : State) (x : BitVec 4) : (s.setCmdOp x).cmdIn = s.cmdIn := rfl
@[simp] theorem setCmdOp_evtIn (s : State) (x : BitVec 4) : (s.setCmdOp x).evtIn = s.evtIn := rfl
@[simp] theorem setCmdOp_resOut (s : State) (x : BitVec 4) : (s.setCmdOp x).resOut = s.resOut := rfl
@[simp] theorem setCmdOp_subOut (s : State) (x : BitVec 4) : (s.setCmdOp x).subOut = s.subOut := rfl
@[simp] theorem setCmdOp_submitAnswers (s : State) (x : BitVec 4) : (s.setCmdOp x).submitAnswers = s.submitAnswers := rfl
@[simp] theorem setCmdOp_infoAnswers (s : State) (x : BitVec 4) : (s.setCmdOp x).infoAnswers = s.infoAnswers := rfl
@[simp] theorem setCmdOp_polls (s : State) (x : BitVec 4) : (s.setCmdOp x).polls = s.polls := rfl
@[simp] theorem setCmdOp_params (s : State) (x : BitVec 4) : (s.setCmdOp x).params = s.params := rfl

@[simp] theorem setCtx_phase (s : State) (x : Context) : (s.setCtx x).phase = s.phase := rfl
@[simp] theorem setCtx_cmdOp (s : State) (x : Context) : (s.setCtx x).cmdOp = s.cmdOp := rfl
@[simp] theorem setCtx_ctx (s : State) (x : Context) : (s.setCtx x).ctx = x := rfl
@[simp] theorem setCtx_flags (s : State) (x : Context) : (s.setCtx x).flags = s.flags := rfl
@[simp] theorem setCtx_pending (s : State) (x : Context) : (s.setCtx x).pending = s.pending := rfl
@[simp] theorem setCtx_req (s : State) (x : Context) : (s.setCtx x).req = s.req := rfl
@[simp] theorem setCtx_resp (s : State) (x : Context) : (s.setCtx x).resp = s.resp := rfl
@[simp] theorem setCtx_chain (s : State) (x : Context) : (s.setCtx x).chain = s.chain := rfl
@[simp] theorem setCtx_scan (s : State) (x : Context) : (s.setCtx x).scan = s.scan := rfl
@[simp] theorem setCtx_fcp (s : State) (x : Context) : (s.setCtx x).fcp = s.fcp := rfl
@[simp] theorem setCtx_phyRes (s : State) (x : Context) : (s.setCtx x).phyRes = s.phyRes := rfl
@[simp] theorem setCtx_faultRegs (s : State) (x : Context) : (s.setCtx x).faultRegs = s.faultRegs := rfl
@[simp] theorem setCtx_cmdIn (s : State) (x : Context) : (s.setCtx x).cmdIn = s.cmdIn := rfl
@[simp] theorem setCtx_evtIn (s : State) (x : Context) : (s.setCtx x).evtIn = s.evtIn := rfl
@[simp] theorem setCtx_resOut (s : State) (x : Context) : (s.setCtx x).resOut = s.resOut := rfl
@[simp] theorem setCtx_subOut (s : State) (x : Context) : (s.setCtx x).subOut = s.subOut := rfl
@[simp] theorem setCtx_submitAnswers (s : State) (x : Context) : (s.setCtx x).submitAnswers = s.submitAnswers := rfl
@[simp] theorem setCtx_infoAnswers (s : State) (x : Context) : (s.setCtx x).infoAnswers = s.infoAnswers := rfl
@[simp] theorem setCtx_polls (s : State) (x : Context) : (s.setCtx x).polls = s.polls := rfl
@[simp] theorem setCtx_params (s : State) (x : Context) : (s.setCtx x).params = s.params := rfl

@[simp] theorem setFlags_phase (s : State) (x : Flags) : (s.setFlags x).phase = s.phase := rfl
@[simp] theorem setFlags_cmdOp (s : State) (x : Flags) : (s.setFlags x).cmdOp = s.cmdOp := rfl
@[simp] theorem setFlags_ctx (s : State) (x : Flags) : (s.setFlags x).ctx = s.ctx := rfl
@[simp] theorem setFlags_flags (s : State) (x : Flags) : (s.setFlags x).flags = x := rfl
@[simp] theorem setFlags_pending (s : State) (x : Flags) : (s.setFlags x).pending = s.pending := rfl
@[simp] theorem setFlags_req (s : State) (x : Flags) : (s.setFlags x).req = s.req := rfl
@[simp] theorem setFlags_resp (s : State) (x : Flags) : (s.setFlags x).resp = s.resp := rfl
@[simp] theorem setFlags_chain (s : State) (x : Flags) : (s.setFlags x).chain = s.chain := rfl
@[simp] theorem setFlags_scan (s : State) (x : Flags) : (s.setFlags x).scan = s.scan := rfl
@[simp] theorem setFlags_fcp (s : State) (x : Flags) : (s.setFlags x).fcp = s.fcp := rfl
@[simp] theorem setFlags_phyRes (s : State) (x : Flags) : (s.setFlags x).phyRes = s.phyRes := rfl
@[simp] theorem setFlags_faultRegs (s : State) (x : Flags) : (s.setFlags x).faultRegs = s.faultRegs := rfl
@[simp] theorem setFlags_cmdIn (s : State) (x : Flags) : (s.setFlags x).cmdIn = s.cmdIn := rfl
@[simp] theorem setFlags_evtIn (s : State) (x : Flags) : (s.setFlags x).evtIn = s.evtIn := rfl
@[simp] theorem setFlags_resOut (s : State) (x : Flags) : (s.setFlags x).resOut = s.resOut := rfl
@[simp] theorem setFlags_subOut (s : State) (x : Flags) : (s.setFlags x).subOut = s.subOut := rfl
@[simp] theorem setFlags_submitAnswers (s : State) (x : Flags) : (s.setFlags x).submitAnswers = s.submitAnswers := rfl
@[simp] theorem setFlags_infoAnswers (s : State) (x : Flags) : (s.setFlags x).infoAnswers = s.infoAnswers := rfl
@[simp] theorem setFlags_polls (s : State) (x : Flags) : (s.setFlags x).polls = s.polls := rfl
@[simp] theorem setFlags_params (s : State) (x : Flags) : (s.setFlags x).params = s.params := rfl

@[simp] theorem setPending_phase (s : State) (x : PendingMatch) : (s.setPending x).phase = s.phase := rfl
@[simp] theorem setPending_cmdOp (s : State) (x : PendingMatch) : (s.setPending x).cmdOp = s.cmdOp := rfl
@[simp] theorem setPending_ctx (s : State) (x : PendingMatch) : (s.setPending x).ctx = s.ctx := rfl
@[simp] theorem setPending_flags (s : State) (x : PendingMatch) : (s.setPending x).flags = s.flags := rfl
@[simp] theorem setPending_pending (s : State) (x : PendingMatch) : (s.setPending x).pending = x := rfl
@[simp] theorem setPending_req (s : State) (x : PendingMatch) : (s.setPending x).req = s.req := rfl
@[simp] theorem setPending_resp (s : State) (x : PendingMatch) : (s.setPending x).resp = s.resp := rfl
@[simp] theorem setPending_chain (s : State) (x : PendingMatch) : (s.setPending x).chain = s.chain := rfl
@[simp] theorem setPending_scan (s : State) (x : PendingMatch) : (s.setPending x).scan = s.scan := rfl
@[simp] theorem setPending_fcp (s : State) (x : PendingMatch) : (s.setPending x).fcp = s.fcp := rfl
@[simp] theorem setPending_phyRes (s : State) (x : PendingMatch) : (s.setPending x).phyRes = s.phyRes := rfl
@[simp] theorem setPending_faultRegs (s : State) (x : PendingMatch) : (s.setPending x).faultRegs = s.faultRegs := rfl
@[simp] theorem setPending_cmdIn (s : State) (x : PendingMatch) : (s.setPending x).cmdIn = s.cmdIn := rfl
@[simp] theorem setPending_evtIn (s : State) (x : PendingMatch) : (s.setPending x).evtIn = s.evtIn := rfl
@[simp] theorem setPending_resOut (s : State) (x : PendingMatch) : (s.setPending x).resOut = s.resOut := rfl
@[simp] theorem setPending_subOut (s : State) (x : PendingMatch) : (s.setPending x).subOut = s.subOut := rfl
@[simp] theorem setPending_submitAnswers (s : State) (x : PendingMatch) : (s.setPending x).submitAnswers = s.submitAnswers := rfl
@[simp] theorem setPending_infoAnswers (s : State) (x : PendingMatch) : (s.setPending x).infoAnswers = s.infoAnswers := rfl
@[simp] theorem setPending_polls (s : State) (x : PendingMatch) : (s.setPending x).polls = s.polls := rfl
@[simp] theorem setPending_params (s : State) (x : PendingMatch) : (s.setPending x).params = s.params := rfl

@[simp] theorem setReq_phase (s : State) (x : Request) : (s.setReq x).phase = s.phase := rfl
@[simp] theorem setReq_cmdOp (s : State) (x : Request) : (s.setReq x).cmdOp = s.cmdOp := rfl
@[simp] theorem setReq_ctx (s : State) (x : Request) : (s.setReq x).ctx = s.ctx := rfl
@[simp] theorem setReq_flags (s : State) (x : Request) : (s.setReq x).flags = s.flags := rfl
@[simp] theorem setReq_pending (s : State) (x : Request) : (s.setReq x).pending = s.pending := rfl
@[simp] theorem setReq_req (s : State) (x : Request) : (s.setReq x).req = x := rfl
@[simp] theorem setReq_resp (s : State) (x : Request) : (s.setReq x).resp = s.resp := rfl
@[simp] theorem setReq_chain (s : State) (x : Request) : (s.setReq x).chain = s.chain := rfl
@[simp] theorem setReq_scan (s : State) (x : Request) : (s.setReq x).scan = s.scan := rfl
@[simp] theorem setReq_fcp (s : State) (x : Request) : (s.setReq x).fcp = s.fcp := rfl
@[simp] theorem setReq_phyRes (s : State) (x : Request) : (s.setReq x).phyRes = s.phyRes := rfl
@[simp] theorem setReq_faultRegs (s : State) (x : Request) : (s.setReq x).faultRegs = s.faultRegs := rfl
@[simp] theorem setReq_cmdIn (s : State) (x : Request) : (s.setReq x).cmdIn = s.cmdIn := rfl
@[simp] theorem setReq_evtIn (s : State) (x : Request) : (s.setReq x).evtIn = s.evtIn := rfl
@[simp] theorem setReq_resOut (s : State) (x : Request) : (s.setReq x).resOut = s.resOut := rfl
@[simp] theorem setReq_subOut (s : State) (x : Request) : (s.setReq x).subOut = s.subOut := rfl
@[simp] theorem setReq_submitAnswers (s : State) (x : Request) : (s.setReq x).submitAnswers = s.submitAnswers := rfl
@[simp] theorem setReq_infoAnswers (s : State) (x : Request) : (s.setReq x).infoAnswers = s.infoAnswers := rfl
@[simp] theorem setReq_polls (s : State) (x : Request) : (s.setReq x).polls = s.polls := rfl
@[simp] theorem setReq_params (s : State) (x : Request) : (s.setReq x).params = s.params := rfl

@[simp] theorem setResp_phase (s : State) (x : Response) : (s.setResp x).phase = s.phase := rfl
@[simp] theorem setResp_cmdOp (s : State) (x : Response) : (s.setResp x).cmdOp = s.cmdOp := rfl
@[simp] theorem setResp_ctx (s : State) (x : Response) : (s.setResp x).ctx = s.ctx := rfl
@[simp] theorem setResp_flags (s : State) (x : Response) : (s.setResp x).flags = s.flags := rfl
@[simp] theorem setResp_pending (s : State) (x : Response) : (s.setResp x).pending = s.pending := rfl
@[simp] theorem setResp_req (s : State) (x : Response) : (s.setResp x).req = s.req := rfl
@[simp] theorem setResp_resp (s : State) (x : Response) : (s.setResp x).resp = x := rfl
@[simp] theorem setResp_chain (s : State) (x : Response) : (s.setResp x).chain = s.chain := rfl
@[simp] theorem setResp_scan (s : State) (x : Response) : (s.setResp x).scan = s.scan := rfl
@[simp] theorem setResp_fcp (s : State) (x : Response) : (s.setResp x).fcp = s.fcp := rfl
@[simp] theorem setResp_phyRes (s : State) (x : Response) : (s.setResp x).phyRes = s.phyRes := rfl
@[simp] theorem setResp_faultRegs (s : State) (x : Response) : (s.setResp x).faultRegs = s.faultRegs := rfl
@[simp] theorem setResp_cmdIn (s : State) (x : Response) : (s.setResp x).cmdIn = s.cmdIn := rfl
@[simp] theorem setResp_evtIn (s : State) (x : Response) : (s.setResp x).evtIn = s.evtIn := rfl
@[simp] theorem setResp_resOut (s : State) (x : Response) : (s.setResp x).resOut = s.resOut := rfl
@[simp] theorem setResp_subOut (s : State) (x : Response) : (s.setResp x).subOut = s.subOut := rfl
@[simp] theorem setResp_submitAnswers (s : State) (x : Response) : (s.setResp x).submitAnswers = s.submitAnswers := rfl
@[simp] theorem setResp_infoAnswers (s : State) (x : Response) : (s.setResp x).infoAnswers = s.infoAnswers := rfl
@[simp] theorem setResp_polls (s : State) (x : Response) : (s.setResp x).polls = s.polls := rfl
@[simp] theorem setResp_params (s : State) (x : Response) : (s.setResp x).params = s.params := rfl

@[simp] theorem setChain_phase (s : State) (x : Chain) : (s.setChain x).phase = s.phase := rfl
@[simp] theorem setChain_cmdOp (s : State) (x : Chain) : (s.setChain x).cmdOp = s.cmdOp := rfl
@[simp] theorem setChain_ctx (s : State) (x : Chain) : (s.setChain x).ctx = s.ctx := rfl
@[simp] theorem setChain_flags (s : State) (x : Chain) : (s.setChain x).flags = s.flags := rfl
@[simp] theorem setChain_pending (s : State) (x : Chain) : (s.setChain x).pending = s.pending := rfl
@[simp] theorem setChain_req (s : State) (x : Chain) : (s.setChain x).req = s.req := rfl
@[simp] theorem setChain_resp (s : State) (x : Chain) : (s.setChain x).resp = s.resp := rfl
@[simp] theorem setChain_chain (s : State) (x : Chain) : (s.setChain x).chain = x := rfl
@[simp] theorem setChain_scan (s : State) (x : Chain) : (s.setChain x).scan = s.scan := rfl
@[simp] theorem setChain_fcp (s : State) (x : Chain) : (s.setChain x).fcp = s.fcp := rfl
@[simp] theorem setChain_phyRes (s : State) (x : Chain) : (s.setChain x).phyRes = s.phyRes := rfl
@[simp] theorem setChain_faultRegs (s : State) (x : Chain) : (s.setChain x).faultRegs = s.faultRegs := rfl
@[simp] theorem setChain_cmdIn (s : State) (x : Chain) : (s.setChain x).cmdIn = s.cmdIn := rfl
@[simp] theorem setChain_evtIn (s : State) (x : Chain) : (s.setChain x).evtIn = s.evtIn := rfl
@[simp] theorem setChain_resOut (s : State) (x : Chain) : (s.setChain x).resOut = s.resOut := rfl
@[simp] theorem setChain_subOut (s : State) (x : Chain) : (s.setChain x).subOut = s.subOut := rfl
@[simp] theorem setChain_submitAnswers (s : State) (x : Chain) : (s.setChain x).submitAnswers = s.submitAnswers := rfl
@[simp] theorem setChain_infoAnswers (s : State) (x : Chain) : (s.setChain x).infoAnswers = s.infoAnswers := rfl
@[simp] theorem setChain_polls (s : State) (x : Chain) : (s.setChain x).polls = s.polls := rfl
@[simp] theorem setChain_params (s : State) (x : Chain) : (s.setChain x).params = s.params := rfl

@[simp] theorem setScan_phase (s : State) (x : Scan) : (s.setScan x).phase = s.phase := rfl
@[simp] theorem setScan_cmdOp (s : State) (x : Scan) : (s.setScan x).cmdOp = s.cmdOp := rfl
@[simp] theorem setScan_ctx (s : State) (x : Scan) : (s.setScan x).ctx = s.ctx := rfl
@[simp] theorem setScan_flags (s : State) (x : Scan) : (s.setScan x).flags = s.flags := rfl
@[simp] theorem setScan_pending (s : State) (x : Scan) : (s.setScan x).pending = s.pending := rfl
@[simp] theorem setScan_req (s : State) (x : Scan) : (s.setScan x).req = s.req := rfl
@[simp] theorem setScan_resp (s : State) (x : Scan) : (s.setScan x).resp = s.resp := rfl
@[simp] theorem setScan_chain (s : State) (x : Scan) : (s.setScan x).chain = s.chain := rfl
@[simp] theorem setScan_scan (s : State) (x : Scan) : (s.setScan x).scan = x := rfl
@[simp] theorem setScan_fcp (s : State) (x : Scan) : (s.setScan x).fcp = s.fcp := rfl
@[simp] theorem setScan_phyRes (s : State) (x : Scan) : (s.setScan x).phyRes = s.phyRes := rfl
@[simp] theorem setScan_faultRegs (s : State) (x : Scan) : (s.setScan x).faultRegs = s.faultRegs := rfl
@[simp] theorem setScan_cmdIn (s : State) (x : Scan) : (s.setScan x).cmdIn = s.cmdIn := rfl
@[simp] theorem setScan_evtIn (s : State) (x : Scan) : (s.setScan x).evtIn = s.evtIn := rfl
@[simp] theorem setScan_resOut (s : State) (x : Scan) : (s.setScan x).resOut = s.resOut := rfl
@[simp] theorem setScan_subOut (s : State) (x : Scan) : (s.setScan x).subOut = s.subOut := rfl
@[simp] theorem setScan_submitAnswers (s : State) (x : Scan) : (s.setScan x).submitAnswers = s.submitAnswers := rfl
@[simp] theorem setScan_infoAnswers (s : State) (x : Scan) : (s.setScan x).infoAnswers = s.infoAnswers := rfl
@[simp] theorem setScan_polls (s : State) (x : Scan) : (s.setScan x).polls = s.polls := rfl
@[simp] theorem setScan_params (s : State) (x : Scan) : (s.setScan x).params = s.params := rfl

@[simp] theorem setFcp_phase (s : State) (x : Fcp) : (s.setFcp x).phase = s.phase := rfl
@[simp] theorem setFcp_cmdOp (s : State) (x : Fcp) : (s.setFcp x).cmdOp = s.cmdOp := rfl
@[simp] theorem setFcp_ctx (s : State) (x : Fcp) : (s.setFcp x).ctx = s.ctx := rfl
@[simp] theorem setFcp_flags (s : State) (x : Fcp) : (s.setFcp x).flags = s.flags := rfl
@[simp] theorem setFcp_pending (s : State) (x : Fcp) : (s.setFcp x).pending = s.pending := rfl
@[simp] theorem setFcp_req (s : State) (x : Fcp) : (s.setFcp x).req = s.req := rfl
@[simp] theorem setFcp_resp (s : State) (x : Fcp) : (s.setFcp x).resp = s.resp := rfl
@[simp] theorem setFcp_chain (s : State) (x : Fcp) : (s.setFcp x).chain = s.chain := rfl
@[simp] theorem setFcp_scan (s : State) (x : Fcp) : (s.setFcp x).scan = s.scan := rfl
@[simp] theorem setFcp_fcp (s : State) (x : Fcp) : (s.setFcp x).fcp = x := rfl
@[simp] theorem setFcp_phyRes (s : State) (x : Fcp) : (s.setFcp x).phyRes = s.phyRes := rfl
@[simp] theorem setFcp_faultRegs (s : State) (x : Fcp) : (s.setFcp x).faultRegs = s.faultRegs := rfl
@[simp] theorem setFcp_cmdIn (s : State) (x : Fcp) : (s.setFcp x).cmdIn = s.cmdIn := rfl
@[simp] theorem setFcp_evtIn (s : State) (x : Fcp) : (s.setFcp x).evtIn = s.evtIn := rfl
@[simp] theorem setFcp_resOut (s : State) (x : Fcp) : (s.setFcp x).resOut = s.resOut := rfl
@[simp] theorem setFcp_subOut (s : State) (x : Fcp) : (s.setFcp x).subOut = s.subOut := rfl
@[simp] theorem setFcp_submitAnswers (s : State) (x : Fcp) : (s.setFcp x).submitAnswers = s.submitAnswers := rfl
@[simp] theorem setFcp_infoAnswers (s : State) (x : Fcp) : (s.setFcp x).infoAnswers = s.infoAnswers := rfl
@[simp] theorem setFcp_polls (s : State) (x : Fcp) : (s.setFcp x).polls = s.polls := rfl
@[simp] theorem setFcp_params (s : State) (x : Fcp) : (s.setFcp x).params = s.params := rfl

@[simp] theorem setPhyRes_phase (s : State) (x : PhyResult) : (s.setPhyRes x).phase = s.phase := rfl
@[simp] theorem setPhyRes_cmdOp (s : State) (x : PhyResult) : (s.setPhyRes x).cmdOp = s.cmdOp := rfl
@[simp] theorem setPhyRes_ctx (s : State) (x : PhyResult) : (s.setPhyRes x).ctx = s.ctx := rfl
@[simp] theorem setPhyRes_flags (s : State) (x : PhyResult) : (s.setPhyRes x).flags = s.flags := rfl
@[simp] theorem setPhyRes_pending (s : State) (x : PhyResult) : (s.setPhyRes x).pending = s.pending := rfl
@[simp] theorem setPhyRes_req (s : State) (x : PhyResult) : (s.setPhyRes x).req = s.req := rfl
@[simp] theorem setPhyRes_resp (s : State) (x : PhyResult) : (s.setPhyRes x).resp = s.resp := rfl
@[simp] theorem setPhyRes_chain (s : State) (x : PhyResult) : (s.setPhyRes x).chain = s.chain := rfl
@[simp] theorem setPhyRes_scan (s : State) (x : PhyResult) : (s.setPhyRes x).scan = s.scan := rfl
@[simp] theorem setPhyRes_fcp (s : State) (x : PhyResult) : (s.setPhyRes x).fcp = s.fcp := rfl
@[simp] theorem setPhyRes_phyRes (s : State) (x : PhyResult) : (s.setPhyRes x).phyRes = x := rfl
@[simp] theorem setPhyRes_faultRegs (s : State) (x : PhyResult) : (s.setPhyRes x).faultRegs = s.faultRegs := rfl
@[simp] theorem setPhyRes_cmdIn (s : State) (x : PhyResult) : (s.setPhyRes x).cmdIn = s.cmdIn := rfl
@[simp] theorem setPhyRes_evtIn (s : State) (x : PhyResult) : (s.setPhyRes x).evtIn = s.evtIn := rfl
@[simp] theorem setPhyRes_resOut (s : State) (x : PhyResult) : (s.setPhyRes x).resOut = s.resOut := rfl
@[simp] theorem setPhyRes_subOut (s : State) (x : PhyResult) : (s.setPhyRes x).subOut = s.subOut := rfl
@[simp] theorem setPhyRes_submitAnswers (s : State) (x : PhyResult) : (s.setPhyRes x).submitAnswers = s.submitAnswers := rfl
@[simp] theorem setPhyRes_infoAnswers (s : State) (x : PhyResult) : (s.setPhyRes x).infoAnswers = s.infoAnswers := rfl
@[simp] theorem setPhyRes_polls (s : State) (x : PhyResult) : (s.setPhyRes x).polls = s.polls := rfl
@[simp] theorem setPhyRes_params (s : State) (x : PhyResult) : (s.setPhyRes x).params = s.params := rfl

@[simp] theorem setFaultRegs_phase (s : State) (x : FaultRegs) : (s.setFaultRegs x).phase = s.phase := rfl
@[simp] theorem setFaultRegs_cmdOp (s : State) (x : FaultRegs) : (s.setFaultRegs x).cmdOp = s.cmdOp := rfl
@[simp] theorem setFaultRegs_ctx (s : State) (x : FaultRegs) : (s.setFaultRegs x).ctx = s.ctx := rfl
@[simp] theorem setFaultRegs_flags (s : State) (x : FaultRegs) : (s.setFaultRegs x).flags = s.flags := rfl
@[simp] theorem setFaultRegs_pending (s : State) (x : FaultRegs) : (s.setFaultRegs x).pending = s.pending := rfl
@[simp] theorem setFaultRegs_req (s : State) (x : FaultRegs) : (s.setFaultRegs x).req = s.req := rfl
@[simp] theorem setFaultRegs_resp (s : State) (x : FaultRegs) : (s.setFaultRegs x).resp = s.resp := rfl
@[simp] theorem setFaultRegs_chain (s : State) (x : FaultRegs) : (s.setFaultRegs x).chain = s.chain := rfl
@[simp] theorem setFaultRegs_scan (s : State) (x : FaultRegs) : (s.setFaultRegs x).scan = s.scan := rfl
@[simp] theorem setFaultRegs_fcp (s : State) (x : FaultRegs) : (s.setFaultRegs x).fcp = s.fcp := rfl
@[simp] theorem setFaultRegs_phyRes (s : State) (x : FaultRegs) : (s.setFaultRegs x).phyRes = s.phyRes := rfl
@[simp] theorem setFaultRegs_faultRegs (s : State) (x : FaultRegs) : (s.setFaultRegs x).faultRegs = x := rfl
@[simp] theorem setFaultRegs_cmdIn (s : State) (x : FaultRegs) : (s.setFaultRegs x).cmdIn = s.cmdIn := rfl
@[simp] theorem setFaultRegs_evtIn (s : State) (x : FaultRegs) : (s.setFaultRegs x).evtIn = s.evtIn := rfl
@[simp] theorem setFaultRegs_resOut (s : State) (x : FaultRegs) : (s.setFaultRegs x).resOut = s.resOut := rfl
@[simp] theorem setFaultRegs_subOut (s : State) (x : FaultRegs) : (s.setFaultRegs x).subOut = s.subOut := rfl
@[simp] theorem setFaultRegs_submitAnswers (s : State) (x : FaultRegs) : (s.setFaultRegs x).submitAnswers = s.submitAnswers := rfl
@[simp] theorem setFaultRegs_infoAnswers (s : State) (x : FaultRegs) : (s.setFaultRegs x).infoAnswers = s.infoAnswers := rfl
@[simp] theorem setFaultRegs_polls (s : State) (x : FaultRegs) : (s.setFaultRegs x).polls = s.polls := rfl
@[simp] theorem setFaultRegs_params (s : State) (x : FaultRegs) : (s.setFaultRegs x).params = s.params := rfl

@[simp] theorem setCmdIn_phase (s : State) (x : List Word) : (s.setCmdIn x).phase = s.phase := rfl
@[simp] theorem setCmdIn_cmdOp (s : State) (x : List Word) : (s.setCmdIn x).cmdOp = s.cmdOp := rfl
@[simp] theorem setCmdIn_ctx (s : State) (x : List Word) : (s.setCmdIn x).ctx = s.ctx := rfl
@[simp] theorem setCmdIn_flags (s : State) (x : List Word) : (s.setCmdIn x).flags = s.flags := rfl
@[simp] theorem setCmdIn_pending (s : State) (x : List Word) : (s.setCmdIn x).pending = s.pending := rfl
@[simp] theorem setCmdIn_req (s : State) (x : List Word) : (s.setCmdIn x).req = s.req := rfl
@[simp] theorem setCmdIn_resp (s : State) (x : List Word) : (s.setCmdIn x).resp = s.resp := rfl
@[simp] theorem setCmdIn_chain (s : State) (x : List Word) : (s.setCmdIn x).chain = s.chain := rfl
@[simp] theorem setCmdIn_scan (s : State) (x : List Word) : (s.setCmdIn x).scan = s.scan := rfl
@[simp] theorem setCmdIn_fcp (s : State) (x : List Word) : (s.setCmdIn x).fcp = s.fcp := rfl
@[simp] theorem setCmdIn_phyRes (s : State) (x : List Word) : (s.setCmdIn x).phyRes = s.phyRes := rfl
@[simp] theorem setCmdIn_faultRegs (s : State) (x : List Word) : (s.setCmdIn x).faultRegs = s.faultRegs := rfl
@[simp] theorem setCmdIn_cmdIn (s : State) (x : List Word) : (s.setCmdIn x).cmdIn = x := rfl
@[simp] theorem setCmdIn_evtIn (s : State) (x : List Word) : (s.setCmdIn x).evtIn = s.evtIn := rfl
@[simp] theorem setCmdIn_resOut (s : State) (x : List Word) : (s.setCmdIn x).resOut = s.resOut := rfl
@[simp] theorem setCmdIn_subOut (s : State) (x : List Word) : (s.setCmdIn x).subOut = s.subOut := rfl
@[simp] theorem setCmdIn_submitAnswers (s : State) (x : List Word) : (s.setCmdIn x).submitAnswers = s.submitAnswers := rfl
@[simp] theorem setCmdIn_infoAnswers (s : State) (x : List Word) : (s.setCmdIn x).infoAnswers = s.infoAnswers := rfl
@[simp] theorem setCmdIn_polls (s : State) (x : List Word) : (s.setCmdIn x).polls = s.polls := rfl
@[simp] theorem setCmdIn_params (s : State) (x : List Word) : (s.setCmdIn x).params = s.params := rfl

@[simp] theorem takePoll_phase (s : State) : s.takePoll.phase = s.phase := rfl
@[simp] theorem takePoll_cmdOp (s : State) : s.takePoll.cmdOp = s.cmdOp := rfl
@[simp] theorem takePoll_ctx (s : State) : s.takePoll.ctx = s.ctx := rfl
@[simp] theorem takePoll_flags (s : State) : s.takePoll.flags = s.flags := rfl
@[simp] theorem takePoll_pending (s : State) : s.takePoll.pending = s.pending := rfl
@[simp] theorem takePoll_req (s : State) : s.takePoll.req = s.req := rfl
@[simp] theorem takePoll_resp (s : State) : s.takePoll.resp = s.resp := rfl
@[simp] theorem takePoll_chain (s : State) : s.takePoll.chain = s.chain := rfl
@[simp] theorem takePoll_scan (s : State) : s.takePoll.scan = s.scan := rfl
@[simp] theorem takePoll_fcp (s : State) : s.takePoll.fcp = s.fcp := rfl
@[simp] theorem takePoll_phyRes (s : State) : s.takePoll.phyRes = s.phyRes := rfl
@[simp] theorem takePoll_faultRegs (s : State) : s.takePoll.faultRegs = s.faultRegs := rfl
@[simp] theorem takePoll_cmdIn (s : State) : s.takePoll.cmdIn = s.cmdIn := rfl
@[simp] theorem takePoll_evtIn (s : State) : s.takePoll.evtIn = s.evtIn.tail := rfl
@[simp] theorem takePoll_resOut (s : State) : s.takePoll.resOut = s.resOut := rfl
@[simp] theorem takePoll_subOut (s : State) : s.takePoll.subOut = s.subOut := rfl
@[simp] theorem takePoll_submitAnswers (s : State) : s.takePoll.submitAnswers = s.submitAnswers := rfl
@[simp] theorem takePoll_infoAnswers (s : State) : s.takePoll.infoAnswers = s.infoAnswers := rfl
@[simp] theorem takePoll_polls (s : State) : s.takePoll.polls = s.polls + 1 := rfl
@[simp] theorem takePoll_params (s : State) : s.takePoll.params = s.params := rfl

@[simp] theorem emit_phase (s : State) (x : List Word) : (s.emit x).phase = s.phase := rfl
@[simp] theorem emit_cmdOp (s : State) (x : List Word) : (s.emit x).cmdOp = s.cmdOp := rfl
@[simp] theorem emit_ctx (s : State) (x : List Word) : (s.emit x).ctx = s.ctx := rfl
@[simp] theorem emit_flags (s : State) (x : List Word) : (s.emit x).flags = s.flags := rfl
@[simp] theorem emit_pending (s : State) (x : List Word) : (s.emit x).pending = s.pending := rfl
@[simp] theorem emit_req (s : State) (x : List Word) : (s.emit x).req = s.req := rfl
@[simp] theorem emit_resp (s : State) (x : List Word) : (s.emit x).resp = s.resp := rfl
@[simp] theorem emit_chain (s : State) (x : List Word) : (s.emit x).chain = s.chain := rfl
@[simp] theorem emit_scan (s : State) (x : List Word) : (s.emit x).scan = s.scan := rfl
@[simp] theorem emit_fcp (s : State) (x : List Word) : (s.emit x).fcp = s.fcp := rfl
@[simp] theorem emit_phyRes (s : State) (x : List Word) : (s.emit x).phyRes = s.phyRes := rfl
@[simp] theorem emit_faultRegs (s : State) (x : List Word) : (s.emit x).faultRegs = s.faultRegs := rfl
@[simp] theorem emit_cmdIn (s : State) (x : List Word) : (s.emit x).cmdIn = s.cmdIn := rfl
@[simp] theorem emit_evtIn (s : State) (x : List Word) : (s.emit x).evtIn = s.evtIn := rfl
@[simp] theorem emit_resOut (s : State) (x : List Word) : (s.emit x).resOut = s.resOut ++ [x] := rfl
@[simp] theorem emit_subOut (s : State) (x : List Word) : (s.emit x).subOut = s.subOut := rfl
@[simp] theorem emit_submitAnswers (s : State) (x : List Word) : (s.emit x).submitAnswers = s.submitAnswers := rfl
@[simp] theorem emit_infoAnswers (s : State) (x : List Word) : (s.emit x).infoAnswers = s.infoAnswers := rfl
@[simp] theorem emit_polls (s : State) (x : List Word) : (s.emit x).polls = s.polls := rfl
@[simp] theorem emit_params (s : State) (x : List Word) : (s.emit x).params = s.params := rfl

@[simp] theorem putSub_phase (s : State) (x : Submission) : (s.putSub x).phase = s.phase := rfl
@[simp] theorem putSub_cmdOp (s : State) (x : Submission) : (s.putSub x).cmdOp = s.cmdOp := rfl
@[simp] theorem putSub_ctx (s : State) (x : Submission) : (s.putSub x).ctx = s.ctx := rfl
@[simp] theorem putSub_flags (s : State) (x : Submission) : (s.putSub x).flags = s.flags := rfl
@[simp] theorem putSub_pending (s : State) (x : Submission) : (s.putSub x).pending = s.pending := rfl
@[simp] theorem putSub_req (s : State) (x : Submission) : (s.putSub x).req = s.req := rfl
@[simp] theorem putSub_resp (s : State) (x : Submission) : (s.putSub x).resp = s.resp := rfl
@[simp] theorem putSub_chain (s : State) (x : Submission) : (s.putSub x).chain = s.chain := rfl
@[simp] theorem putSub_scan (s : State) (x : Submission) : (s.putSub x).scan = s.scan := rfl
@[simp] theorem putSub_fcp (s : State) (x : Submission) : (s.putSub x).fcp = s.fcp := rfl
@[simp] theorem putSub_phyRes (s : State) (x : Submission) : (s.putSub x).phyRes = s.phyRes := rfl
@[simp] theorem putSub_faultRegs (s : State) (x : Submission) : (s.putSub x).faultRegs = s.faultRegs := rfl
@[simp] theorem putSub_cmdIn (s : State) (x : Submission) : (s.putSub x).cmdIn = s.cmdIn := rfl
@[simp] theorem putSub_evtIn (s : State) (x : Submission) : (s.putSub x).evtIn = s.evtIn := rfl
@[simp] theorem putSub_resOut (s : State) (x : Submission) : (s.putSub x).resOut = s.resOut := rfl
@[simp] theorem putSub_subOut (s : State) (x : Submission) : (s.putSub x).subOut = s.subOut ++ [x] := rfl
@[simp] theorem putSub_submitAnswers (s : State) (x : Submission) : (s.putSub x).submitAnswers = s.submitAnswers.tail := rfl
@[simp] theorem putSub_infoAnswers (s : State) (x : Submission) : (s.putSub x).infoAnswers = s.infoAnswers := rfl
@[simp] theorem putSub_polls (s : State) (x : Submission) : (s.putSub x).polls = s.polls := rfl
@[simp] theorem putSub_params (s : State) (x : Submission) : (s.putSub x).params = s.params := rfl

@[simp] theorem putGetInfo_phase (s : State) : s.putGetInfo.phase = s.phase := rfl
@[simp] theorem putGetInfo_cmdOp (s : State) : s.putGetInfo.cmdOp = s.cmdOp := rfl
@[simp] theorem putGetInfo_ctx (s : State) : s.putGetInfo.ctx = s.ctx := rfl
@[simp] theorem putGetInfo_flags (s : State) : s.putGetInfo.flags = s.flags := rfl
@[simp] theorem putGetInfo_pending (s : State) : s.putGetInfo.pending = s.pending := rfl
@[simp] theorem putGetInfo_req (s : State) : s.putGetInfo.req = s.req := rfl
@[simp] theorem putGetInfo_resp (s : State) : s.putGetInfo.resp = s.resp := rfl
@[simp] theorem putGetInfo_chain (s : State) : s.putGetInfo.chain = s.chain := rfl
@[simp] theorem putGetInfo_scan (s : State) : s.putGetInfo.scan = s.scan := rfl
@[simp] theorem putGetInfo_fcp (s : State) : s.putGetInfo.fcp = s.fcp := rfl
@[simp] theorem putGetInfo_phyRes (s : State) : s.putGetInfo.phyRes = s.phyRes := rfl
@[simp] theorem putGetInfo_faultRegs (s : State) : s.putGetInfo.faultRegs = s.faultRegs := rfl
@[simp] theorem putGetInfo_cmdIn (s : State) : s.putGetInfo.cmdIn = s.cmdIn := rfl
@[simp] theorem putGetInfo_evtIn (s : State) : s.putGetInfo.evtIn = s.evtIn := rfl
@[simp] theorem putGetInfo_resOut (s : State) : s.putGetInfo.resOut = s.resOut := rfl
@[simp] theorem putGetInfo_subOut (s : State) : s.putGetInfo.subOut = s.subOut ++ [.getInfo] := rfl
@[simp] theorem putGetInfo_submitAnswers (s : State) : s.putGetInfo.submitAnswers = s.submitAnswers := rfl
@[simp] theorem putGetInfo_infoAnswers (s : State) : s.putGetInfo.infoAnswers = s.infoAnswers.tail := rfl
@[simp] theorem putGetInfo_polls (s : State) : s.putGetInfo.polls = s.polls := rfl
@[simp] theorem putGetInfo_params (s : State) : s.putGetInfo.params = s.params := rfl

end Sys2Proof.Machine
end

