-- ==== Sys2Proof/Laws/Ops.lean ====
section
/-! SUPPORT. What each shared operation can do, said once: the endings, the guards, a submission, a poll. -/

namespace Sys2Proof.Machine

/-! ## Flow -/

@[simp] theorem go_andThen (s : State) (k : State → Flow) : (Flow.go s).andThen k = k s := rfl
@[simp] theorem ended_andThen (s : State) (k : State → Flow) : (Flow.ended s).andThen k = .ended s := rfl
@[simp] theorem go_state (s : State) : (Flow.go s).state = s := rfl
@[simp] theorem ended_state (s : State) : (Flow.ended s).state = s := rfl

/-! ## The two endings -/

/-- All that `finish` does: one result record, then IDLE (60_exceptions.md R512). -/
theorem finish_eq (status : BitVec 4) (rcode : BitVec 5) (info : Word) (data : List Byte) (s : State) :
    finish status rcode info data s =
      { s with resOut := s.resOut ++ [resultWords status s.cmdOp rcode info data], phase := .idle } := rfl

/-- All that taking a fault does (60_exceptions.md R512, R513). -/
theorem raiseReporting_eq (k : FaultKind) (info resultInfo : Word) (data : List Byte) (s : State) :
    raiseReporting k info resultInfo data s =
      { s with faultRegs := { code := k.code, info := info },
               resOut := s.resOut ++ [resultWords k.code s.cmdOp 0 resultInfo data],
               phase := phaseAfterFault k } := rfl

/-- All that `raise Fault(code, info)` does (60_exceptions.md R512). -/
theorem raise_eq (k : FaultKind) (info : Word) (s : State) :
    raise k info s =
      { s with faultRegs := { code := k.code, info := info },
               resOut := s.resOut ++ [resultWords k.code s.cmdOp 0 info []],
               phase := phaseAfterFault k } := rfl

@[simp] theorem phaseAfterFault_ioFailure : phaseAfterFault .ioFailure = .faulted := rfl
@[simp] theorem phaseAfterFault_protocolTimeout : phaseAfterFault .protocolTimeout = .idle := rfl
@[simp] theorem phaseAfterFault_protocolCorruption : phaseAfterFault .protocolCorruption = .faulted := rfl
@[simp] theorem phaseAfterFault_busReset : phaseAfterFault .busReset = .faulted := rfl
@[simp] theorem phaseAfterFault_invalidOperandWidth : phaseAfterFault .invalidOperandWidth = .idle := rfl
@[simp] theorem phaseAfterFault_invalidArgument : phaseAfterFault .invalidArgument = .idle := rfl

/-! ## Dispatch and guards -/

theorem accept_faulted {opc : BitVec 4} {body : State → Flow} {s : State} (h : s.phase = .faulted) :
    accept opc body s = .next (answerFaulted opc s) := by simp [accept, h]

theorem accept_ready {opc : BitVec 4} {body : State → Flow} {s : State} (h : s.phase ≠ .faulted) :
    accept opc body s = .next (body (s.setCmdOp opc)).state := by simp [accept, h]

theorem requireConnected_of (s : State) (h : s.ctx.genValid = true) : requireConnected s = .go s := by
  simp [requireConnected, h]

theorem requireConnected_of_not (s : State) (h : s.ctx.genValid = false) :
    requireConnected s = .ended (raise .invalidArgument infoNotConnected s) := by simp [requireConnected, h]

theorem requireLength_of {n : Nat} (s : State) (h : n ≤ s.params.maxPayload.toNat) : requireLength n s = .go s := by
  simp [requireLength, Nat.not_lt.mpr h]

theorem requireLength_of_not {n : Nat} (s : State) (h : s.params.maxPayload.toNat < n) :
    requireLength n s = .ended (raise .invalidArgument infoLengthTooLarge s) := by simp [requireLength, h]

/-! ## Submissions -/

/-- The answer to the next submission is the first one. -/
theorem answerTo_zero (s : State) : answerTo s 0 = submitAnswer s := by
  unfold answerTo submitAnswer
  rw [List.drop_zero, Nat.add_zero]

/-- Taking one answer moves every later submission up by one place. -/
theorem answerTo_putSub (x : Submission) (s : State) (k : Nat) : answerTo (s.putSub x) k = answerTo s (k + 1) := by
  have h : s.submitAnswers.tail.drop k = s.submitAnswers.drop (k + 1) := by
    cases s.submitAnswers <;> simp
  have h' : (s.subOut ++ [x]).length + k = s.subOut.length + (k + 1) := by
    rw [List.length_append, List.length_singleton]; omega
  unfold answerTo
  rw [putSub_submitAnswers, putSub_subOut, h, h']

theorem submit_ok {sub : Submission} {s : State} {op : Nat} (h : submitAnswer s = .ok op) :
    submit sub s = .go (s.putSub sub) := by simp [submit, h]

theorem submit_rejected {sub : Submission} {s : State} (h : submitAnswer s = .rejected) :
    submit sub s = .ended (raise .ioFailure infoSubmitRejected (s.putSub sub)) := by simp [submit, h]

/-- All that a submission can do: the record is on SUB_OUT, and the command goes on or has ended in IoFailure. -/
theorem submit_cases (sub : Submission) (s : State) :
    submit sub s = .go (s.putSub sub) ∨
      submit sub s = .ended (raise .ioFailure infoSubmitRejected (s.putSub sub)) := by
  cases h : submitAnswer s with
  | ok op => exact .inl (submit_ok h)
  | rejected => exact .inr (submit_rejected h)

/-- All that `ArmPhyRx` can do (40_event_stream.md R213). -/
theorem armPhyRx_cases (s : State) :
    (s.ctx.phyRxEn = true ∧ armPhyRx s = .go s) ∨
      (s.ctx.phyRxEn = false ∧
        armPhyRx s = .go ((s.putSub .enablePhyRx).setCtx { s.ctx with phyRxEn := true })) ∨
      (s.ctx.phyRxEn = false ∧
        armPhyRx s = .ended (raise .ioFailure infoSubmitRejected (s.putSub .enablePhyRx))) := by
  cases h : s.ctx.phyRxEn with
  | true => simp [armPhyRx, h]
  | false =>
    rcases submit_cases .enablePhyRx s with hs | hs
    · exact .inr (.inl ⟨rfl, by simp [armPhyRx, h, hs]⟩)
    · exact .inr (.inr ⟨rfl, by simp [armPhyRx, h, hs]⟩)

/-- All that `SubmitAsync` can do (40_event_stream.md R202). -/
theorem submitAsync_cases (s : State) :
    submitAsync s = .go (countSubmission ((stampRequest s).putSub (asyncSubmission (stampRequest s).req))) ∨
      submitAsync s = .ended (raise .ioFailure infoSubmitRejected
        ((stampRequest s).putSub (asyncSubmission (stampRequest s).req))) := by
  rcases submit_cases (asyncSubmission (stampRequest s).req) (stampRequest s) with hs | hs
  · exact .inl (by simp [submitAsync, hs])
  · exact .inr (by simp [submitAsync, hs])

/-! ## Polls -/

theorem pollAnswer_listed {s : State} {a : PollAnswer} {es : List PollAnswer} (h : s.evtIn = a :: es) :
    pollAnswer s = a := by simp [pollAnswer, h]

/-- All that a validated event is: a delivered record long enough for its type, with the bus-reset update done
(40_event_stream.md R204, R219). -/
theorem nextEvent_event {s u : State} {e : Event} (h : nextEvent s = .event e u) :
    ∃ r, pollAnswer s = .event r ∧ s.params.minEventLen ≤ r.len ∧ typedTooShort s.params r = false ∧
      e = decodeEvent r ∧ u = onBusReset e s.takePoll := by
  unfold nextEvent at h
  split at h
  · cases h
  · cases h
  · next r hr =>
    unfold validateEvent at h
    split at h
    · cases h
    · next h1 =>
      split at h
      · cases h
      · next h2 =>
        simp only [Poll.event.injEq] at h
        refine ⟨r, hr, by simpa using h1, by simpa using h2, h.1.symm, ?_⟩
        rw [← h.2, ← h.1]

/-- All that a TIMEOUT is: ENV's answer to the poll (40_event_stream.md R220). -/
theorem nextEvent_timeout {s u : State} (h : nextEvent s = .timeout u) :
    pollAnswer s = .timeout ∧ u = s.takePoll := by
  unfold nextEvent at h
  split at h
  · next ha => exact ⟨ha, (Poll.timeout.inj h).symm⟩
  · cases h
  · unfold validateEvent at h
    split at h
    · cases h
    · split at h <;> cases h

/-- All the ways a poll itself ends a command (40_event_stream.md R204, R207, R208, R218). -/
theorem nextEvent_ended {s u : State} (h : nextEvent s = .ended u) :
    u = raise .ioFailure infoReadFailed s.takePoll ∨ u = raise .protocolCorruption infoShortRead s.takePoll ∨
      u = raise .protocolCorruption infoShortTypedRecord s.takePoll := by
  unfold nextEvent at h
  split at h
  · cases h
  · exact .inl (Poll.ended.inj h).symm
  · refine .inr ?_
    unfold validateEvent at h
    split at h
    · exact .inl (Poll.ended.inj h).symm
    · split at h
      · exact .inr (Poll.ended.inj h).symm
      · cases h

/-- The bus-reset update touches the context group only: `GEN`, `LOCAL_NODE`, `ROOT_NODE` (40_event_stream.md R210). -/
theorem onBusReset_eq (e : Event) (s : State) :
    ∃ g loc root, onBusReset e s = s.setCtx { s.ctx with gen := g, localNode := loc, rootNode := root } := by
  cases e with
  | busReset g root loc => exact ⟨g, loc, root, rfl⟩
  | sent _ _ => exact ⟨s.ctx.gen, s.ctx.localNode, s.ctx.rootNode, rfl⟩
  | phyReceived _ => exact ⟨s.ctx.gen, s.ctx.localNode, s.ctx.rootNode, rfl⟩
  | asyncResponse _ _ _ _ => exact ⟨s.ctx.gen, s.ctx.localNode, s.ctx.rootNode, rfl⟩
  | asyncRequest _ _ _ _ _ => exact ⟨s.ctx.gen, s.ctx.localNode, s.ctx.rootNode, rfl⟩
  | other => exact ⟨s.ctx.gen, s.ctx.localNode, s.ctx.rootNode, rfl⟩

end Sys2Proof.Machine
end

