-- ==== Sys2Proof/Laws/Flow.lean ====
section
/-! SUPPORT. What the body of a command can do, once for all commands: how far it changes the state while it goes on
(`Progress`), how it can end (`Ended`), and so what taking a record can do (`runRecord_outcome`). -/

namespace Sys2Proof.Machine

/-- Where a flow goes on, `P` holds; where it has ended, `Q` holds. -/
def Flow.Sat (P Q : State → Prop) : Flow → Prop
  | .go s => P s
  | .ended s => Q s

theorem Flow.Sat.bind {P P' Q : State → Prop} {f : Flow} {k : State → Flow} (h : f.Sat P Q)
    (hk : ∀ s, P s → (k s).Sat P' Q) : (f.andThen k).Sat P' Q := by
  cases f with
  | go s => exact hk s h
  | ended s => exact h

theorem Flow.Sat.mono {P P' Q : State → Prop} {f : Flow} (h : f.Sat P Q) (hk : ∀ s, P s → P' s) : f.Sat P' Q := by
  cases f with
  | go s => exact hk s h
  | ended s => exact h

/-- A submission stamped with generation `g`, where it carries one. -/
def stampedWith (g : Word) : Submission → Prop
  | .phy _ _ g' => g' = g
  | .async _ _ _ _ g' bc => g' = g ∧ bc = false
  | .response _ _ _ => True
  | .enablePhyRx => True
  | .allocate _ _ => True
  | .busReset _ => True
  | .getInfo => True

/-- What holds from a state `s` of a command to a later state `t` of it, before its end. -/
structure Progress (s t : State) : Prop where
  phase : t.phase = s.phase
  cmdOp : t.cmdOp = s.cmdOp
  cmdIn : t.cmdIn = s.cmdIn
  evtIn : t.evtIn = s.evtIn
  polls : t.polls = s.polls
  resOut : t.resOut = s.resOut
  params : t.params = s.params
  gen : t.ctx.gen = s.ctx.gen
  genValid : t.ctx.genValid = s.ctx.genValid
  phyRxEn : s.ctx.phyRxEn = true → t.ctx.phyRxEn = true
  rangeValid : s.ctx.fcpRangeValid = true → t.ctx.fcpRangeValid = true
  subOut : ∃ ss, t.subOut = s.subOut ++ ss ∧ ∀ x ∈ ss, stampedWith s.ctx.gen x

theorem Progress.refl (s : State) : Progress s s :=
  ⟨rfl, rfl, rfl, rfl, rfl, rfl, rfl, rfl, rfl, id, id, [], by simp, by simp⟩

theorem Progress.trans {s t u : State} (h : Progress s t) (k : Progress t u) : Progress s u := by
  obtain ⟨ss, h1, h2⟩ := h.subOut
  obtain ⟨ss', h1', h2'⟩ := k.subOut
  refine ⟨k.phase.trans h.phase, k.cmdOp.trans h.cmdOp, k.cmdIn.trans h.cmdIn, k.evtIn.trans h.evtIn,
    k.polls.trans h.polls, k.resOut.trans h.resOut, k.params.trans h.params, k.gen.trans h.gen,
    k.genValid.trans h.genValid, fun x => k.phyRxEn (h.phyRxEn x), fun x => k.rangeValid (h.rangeValid x), ss ++ ss',
    by rw [h1', h1, List.append_assoc], ?_⟩
  intro x hx
  rcases List.mem_append.1 hx with hx | hx
  · exact h2 x hx
  · have := h2' x hx
    rwa [h.gen] at this

/-- An update of the registers that no command shares. -/
theorem Progress.of (s t : State) (h1 : t.phase = s.phase) (h2 : t.cmdOp = s.cmdOp) (h3 : t.cmdIn = s.cmdIn)
    (h4 : t.evtIn = s.evtIn) (h5 : t.resOut = s.resOut) (h6 : t.params = s.params) (h7 : t.ctx = s.ctx)
    (h8 : t.subOut = s.subOut) (h9 : t.polls = s.polls := by rfl) : Progress s t :=
  ⟨h1, h2, h3, h4, h9, h5, h6, by rw [h7], by rw [h7], by rw [h7]; exact id, by rw [h7]; exact id, [], by simp [h8],
    by simp⟩

theorem Progress.putSub (s : State) (x : Submission) (h : stampedWith s.ctx.gen x) : Progress s (s.putSub x) :=
  ⟨rfl, rfl, rfl, rfl, rfl, rfl, rfl, rfl, rfl, id, id, [x], rfl, by simpa using h⟩

theorem resultWords_status (st opc : BitVec 4) (rc : BitVec 5) (info : Word) (data : List Byte) :
    field ((resultWords st opc rc info data).headD 0) 28 4 = st := by
  simp [resultWords, field_place_same, field_place_disjoint]

/-- A command that began at `s` has ended at `t`: after some progress, one result record and the phase IDLE or FAULTED; with
status 6 or 7 nothing but the fault registers was written. -/
structure Ended (s t : State) : Prop where
  after : ∃ u ws, Progress s u ∧
    t = { u with faultRegs := t.faultRegs, resOut := u.resOut ++ [ws], phase := t.phase } ∧
    (field (ws.headD 0) 28 4 = 6 ∨ field (ws.headD 0) 28 4 = 7 → u = s ∧ t.phase = .idle)
  phase : t.phase = .idle ∨ t.phase = .faulted

theorem Ended.finish {s u : State} (h : Progress s u) {st : BitVec 4} {rc : BitVec 5} {info : Word} {data : List Byte}
    (hst : st = 0 ∨ st = 1) : Ended s (finish st rc info data u) := by
  refine ⟨⟨u, _, h, rfl, ?_⟩, .inl rfl⟩
  rw [resultWords_status]
  rcases hst with rfl | rfl <;> simp

/-- A fault raised in the middle of a command is none of the validation faults. -/
theorem Ended.raise {s u : State} (h : Progress s u) {k : FaultKind} {info : Word}
    (hk : k ≠ .invalidArgument ∧ k ≠ .invalidOperandWidth) : Ended s (raise k info u) := by
  refine ⟨⟨u, _, h, rfl, ?_⟩, ?_⟩
  · rw [resultWords_status]
    cases k <;> simp [FaultKind.code] at hk ⊢
  · cases k <;> simp [raise_eq]

/-- A validation fault, before anything is written. -/
theorem Ended.refuse {s : State} {k : FaultKind} {info : Word}
    (hk : k = .invalidArgument ∨ k = .invalidOperandWidth) : Ended s (Machine.raise k info s) := by
  refine ⟨⟨s, _, Progress.refl s, rfl, fun _ => ⟨rfl, ?_⟩⟩, ?_⟩ <;> rcases hk with rfl | rfl <;> simp [raise_eq]

/-! ## The guards and the submissions -/

theorem requireConnected_sat (s : State) :
    (requireConnected s).Sat (fun t => t = s ∧ s.ctx.genValid = true) (Ended s) := by
  unfold requireConnected
  split
  · exact ⟨rfl, by assumption⟩
  · exact Ended.refuse (.inl rfl)

theorem requireLength_sat (n : Nat) (s : State) : (requireLength n s).Sat (fun t => t = s) (Ended s) := by
  unfold requireLength
  split
  · exact Ended.refuse (.inl rfl)
  · rfl

theorem requireLockOperands_sat (k : LockKind) (a b : List Byte) (s : State) :
    (requireLockOperands k a b s).Sat (fun t => t = s) (Ended s) := by
  unfold requireLockOperands
  split
  · exact Ended.refuse (.inr rfl)
  · rfl

theorem submit_sat {s₀ s : State} (h₀ : Progress s₀ s) (x : Submission) (h : stampedWith s.ctx.gen x) :
    (submit x s).Sat (Progress s₀) (Ended s₀) := by
  unfold submit
  split
  · exact h₀.trans (Progress.putSub s x h)
  · exact Ended.raise (h₀.trans (Progress.putSub s x h)) (by simp)

theorem submitAsync_sat {s₀ s : State} (h₀ : Progress s₀ s) : (submitAsync s).Sat (Progress s₀) (Ended s₀) := by
  unfold submitAsync
  have h1 : Progress s (stampRequest s) := Progress.of _ _ rfl rfl rfl rfl rfl rfl rfl rfl
  refine (submit_sat (h₀.trans h1) _ (by exact ⟨rfl, rfl⟩)).bind ?_
  intro t ht
  exact ht.trans (Progress.of t (countSubmission t) rfl rfl rfl rfl rfl rfl rfl rfl)

theorem armPhyRx_sat {s₀ s : State} (h₀ : Progress s₀ s) : (armPhyRx s).Sat (Progress s₀) (Ended s₀) := by
  unfold armPhyRx
  split
  · exact h₀
  · refine (submit_sat h₀ _ (by trivial)).bind ?_
    intro t ht
    exact ht.trans ⟨rfl, rfl, rfl, rfl, rfl, rfl, rfl, rfl, rfl, fun _ => rfl, id, [], by simp, by simp⟩

theorem submitScan_sat (phy : BitVec 6) : ∀ (regs : List Nat) {s₀ s : State}, Progress s₀ s →
    (submitScan phy regs s).Sat (Progress s₀) (Ended s₀)
  | [], _, _, h => h
  | _ :: regs, _, _, h => (submit_sat h _ (by rfl)).bind fun _ ht => submitScan_sat phy regs ht

theorem fcpAllocate_sat {s₀ s : State} (h₀ : Progress s₀ s) : (fcpAllocate s).Sat (Progress s₀) (Ended s₀) := by
  unfold fcpAllocate
  split
  · exact h₀
  · refine (submit_sat h₀ _ (by trivial)).bind ?_
    intro t ht
    exact ht.trans ⟨rfl, rfl, rfl, rfl, rfl, rfl, rfl, rfl, rfl, id, fun _ => rfl, [], by simp [recordFcpRange], by simp⟩

/-! ## The bodies of the commands -/

/-- A command that began at `s` waits at `t`: after some progress only the phase has changed, and GEN_VALID was set. -/
def Waits (s t : State) : Prop :=
  ∃ u, Progress s u ∧ t = { u with phase := t.phase } ∧
    (t.phase = .phyWait ∨ t.phase = .asyncWait ∨ t.phase = .fcpWait ∨ t.phase = .scanWait) ∧ s.ctx.genValid = true

theorem sendAsync_sat {s₀ s : State} (h₀ : Progress s₀ s) (hg : s₀.ctx.genValid = true) :
    (sendAsync s).Sat (Waits s₀) (Ended s₀) := by
  unfold sendAsync
  have h1 : Progress s (clearSubmits s) := Progress.of _ _ rfl rfl rfl rfl rfl rfl rfl rfl
  refine (submitAsync_sat (h₀.trans h1)).bind ?_
  intro t ht
  exact ⟨t, ht, rfl, .inr (.inl rfl), hg⟩

theorem sendPhyPacket_sat (d0 d1 mask bits : Word) (s : State) :
    (sendPhyPacket d0 d1 mask bits s).Sat (Waits s) (Ended s) := by
  unfold sendPhyPacket
  refine (requireConnected_sat s).bind ?_
  rintro t ⟨rfl, hg⟩
  have h1 : Progress t (phyStart mask bits t) := Progress.of _ _ rfl rfl rfl rfl rfl rfl rfl rfl
  have h2 : (armForResponse mask (phyStart mask bits t)).Sat (Progress t) (Ended t) := by
    unfold armForResponse
    split
    · exact h1
    · exact armPhyRx_sat h1
  refine h2.bind ?_
  intro u hu
  refine (submit_sat hu _ (by rfl)).bind ?_
  intro v hv
  exact ⟨v, hv, rfl, .inl rfl, hg⟩

theorem asyncLockOf_sat (k : LockKind) (o : Offset) (a b : List Byte) (s : State) :
    (asyncLockOf k o a b s).Sat (Waits s) (Ended s) := by
  unfold asyncLockOf
  refine (requireConnected_sat s).bind ?_
  rintro t ⟨rfl, hg⟩
  refine (requireLockOperands_sat _ _ _ t).bind ?_
  rintro _ rfl
  exact sendAsync_sat (Progress.of _ _ rfl rfl rfl rfl rfl rfl rfl rfl) hg

theorem encodeLockOf_sat (k : LockKind) (a b : List Byte) (s : State) :
    (encodeLockOf k a b s).Sat (Waits s) (Ended s) := by
  unfold encodeLockOf
  refine (requireLockOperands_sat _ _ _ s).bind ?_
  rintro _ rfl
  exact Ended.finish (Progress.refl _) (.inl rfl)

theorem decodeChain_sat (n : BitVec 16) (ws : List Word) (s : State) :
    (decodeChain n ws s).Sat (Waits s) (Ended s) := by
  unfold decodeChain requireChainCount
  split
  · exact Ended.finish (Progress.refl _) (.inl rfl)
  · exact Ended.refuse (.inl rfl)

theorem encodeChain_sat (n : BitVec 16) (f0 f1 : Word) (s : State) :
    (encodeChain n f0 f1 s).Sat (Waits s) (Ended s) := by
  unfold encodeChain requireChainCount
  split
  · rw [go_andThen]
    unfold requireCarriedFields
    split
    · exact Ended.finish (Progress.refl _) (.inl rfl)
    · exact Ended.refuse (.inl rfl)
  · exact Ended.refuse (.inl rfl)

theorem startScan_sat (phy : BitVec 6) (s : State) : (startScan phy s).Sat (Waits s) (Ended s) := by
  unfold startScan
  refine (requireConnected_sat s).bind ?_
  rintro t ⟨rfl, hg⟩
  refine (armPhyRx_sat (Progress.of t (scanStart phy t) rfl rfl rfl rfl rfl rfl rfl rfl)).bind ?_
  intro u hu
  refine (submitScan_sat phy _ hu).bind ?_
  intro v hv
  exact ⟨v, hv, rfl, .inr (.inr (.inr rfl)), hg⟩

theorem sendFcpCommand_sat (b : List Byte) (s : State) : (sendFcpCommand b s).Sat (Waits s) (Ended s) := by
  unfold sendFcpCommand
  refine (requireConnected_sat s).bind ?_
  rintro t ⟨ht, hg⟩
  subst ht
  refine (requireLength_sat _ t).bind ?_
  intro s hs
  subst hs
  refine (fcpAllocate_sat (Progress.of s (fcpStart s) rfl rfl rfl rfl rfl rfl rfl rfl)).bind ?_
  intro u hu
  refine (submitAsync_sat (hu.trans
    (Progress.of u (clearSubmits (loadFcpWrite b u)) rfl rfl rfl rfl rfl rfl rfl rfl))).bind ?_
  intro v hv
  exact ⟨v, hv, rfl, .inr (.inr (.inl rfl)), hg⟩

theorem requestBusReset_sat (kind : BitVec 4) (s : State) : (requestBusReset kind s).Sat (Waits s) (Ended s) := by
  unfold requestBusReset
  refine (requireConnected_sat s).bind ?_
  rintro t ⟨rfl, hg⟩
  refine (submit_sat (Progress.refl t) _ (by trivial)).bind ?_
  intro u hu
  exact Ended.finish hu (.inl rfl)

/-- All that CONNECT can do (47_context_commands.md R460, R461). -/
def Connected (s t : State) : Prop :=
  ∃ ws c, t = { s.putGetInfo with ctx := c, faultRegs := t.faultRegs, resOut := s.resOut ++ [ws], phase := t.phase } ∧
    ¬ (field (ws.headD 0) 28 4 = 6 ∨ field (ws.headD 0) 28 4 = 7) ∧ (t.phase = .idle ∨ t.phase = .faulted) ∧
    c.phyRxEn = s.ctx.phyRxEn ∧ c.fcpRangeValid = s.ctx.fcpRangeValid ∧ (s.ctx.genValid = true → c.genValid = true)

theorem connectDevice_outcome (s : State) : Connected s (connectDevice s).state := by
  unfold connectDevice
  rw [ended_state]
  unfold onGetInfo
  split
  · refine ⟨_, _, rfl, ?_, .inr rfl, rfl, rfl, id⟩
    rw [resultWords_status]; decide
  · next h hd =>
    unfold onInfoAnswer
    split
    · refine ⟨_, _, rfl, ?_, .inl rfl, rfl, rfl, fun _ => rfl⟩
      rw [resultWords_status]; decide
    · refine ⟨_, _, rfl, ?_, .inr rfl, rfl, rfl, id⟩
      rw [resultWords_status]; decide

/-! ## Taking a record -/

/-- The opcode of an instruction (30_encoding.md R124). -/
def instrOpcode : Instr → BitVec 4
  | .connect => 0x0
  | .sendPhy _ _ _ _ => 0x1
  | .sendPhySym _ _ _ => 0x2
  | .asyncRead _ _ => 0x3
  | .asyncWrite _ _ => 0x4
  | .asyncLockMaskSwap _ _ _ => 0x5
  | .asyncLockCompareSwap _ _ _ => 0x5
  | .asyncLockFetchAdd _ _ _ => 0x5
  | .asyncLockLittleAdd _ _ _ => 0x5
  | .asyncLockBoundedAdd _ _ _ => 0x5
  | .asyncLockWrapAdd _ _ _ => 0x5
  | .encodeLockMaskSwap _ _ => 0x6
  | .encodeLockCompareSwap _ _ => 0x6
  | .encodeLockFetchAdd _ _ => 0x6
  | .encodeLockLittleAdd _ _ => 0x6
  | .encodeLockBoundedAdd _ _ => 0x6
  | .encodeLockWrapAdd _ _ => 0x6
  | .decodeSelfId _ _ => 0x7
  | .encodeSelfId _ _ _ => 0x8
  | .scanPhyRegs _ => 0x9
  | .sendFcp _ => 0xA
  | .busResetReqLong => 0xB
  | .busResetReqShort => 0xB
  | .illegalC _ => 0xC
  | .illegalD _ => 0xD
  | .illegalE _ => 0xE
  | .illegalF _ => 0xF

/-- The opcode of a rejected record. -/
def rejectOpcode : Reject → BitVec 4
  | .reservedBits opc => opc
  | .badAsyncLockOp => 0x5
  | .badEncodeLockOp => 0x6
  | .badResetKind => 0xB

/-- The opcode of a whole record. -/
def recordOpcode : Decoded → BitVec 4
  | .instr i => instrOpcode i
  | .reject r => rejectOpcode r

/-- In FAULTED every record is answered with the stored fault (60_exceptions.md R511). -/
theorem runRecord_faulted (d : Decoded) {s : State} (h : s.phase = .faulted) :
    runRecord d s = .next (answerFaulted (recordOpcode d) s) := by
  cases d with
  | instr i => cases i <;> simp only [runRecord, exec, recordOpcode, instrOpcode] <;> exact accept_faulted h
  | reject r => cases r <;> simp only [runRecord, execReject, recordOpcode, rejectOpcode] <;> exact accept_faulted h

theorem accept_outcome {opc : BitVec 4} {body : State → Flow} {s : State} (hp : s.phase ≠ .faulted)
    (h : (body (s.setCmdOp opc)).Sat (Waits (s.setCmdOp opc)) (Ended (s.setCmdOp opc))) :
    ∃ t, accept opc body s = .next t ∧ (Waits (s.setCmdOp opc) t ∨ Ended (s.setCmdOp opc) t) := by
  refine ⟨_, accept_ready hp, ?_⟩
  cases hb : body (s.setCmdOp opc) with
  | go t => rw [hb] at h; exact .inl h
  | ended t => rw [hb] at h; exact .inr h

/-- All that a record other than CONNECT can do outside FAULTED: it waits, or it has ended. -/
theorem runRecord_outcome (d : Decoded) {s : State} (hp : s.phase ≠ .faulted) (hd : d ≠ .instr .connect) :
    ∃ t, runRecord d s = .next t ∧
      (Waits (s.setCmdOp (recordOpcode d)) t ∨ Ended (s.setCmdOp (recordOpcode d)) t) := by
  cases d with
  | instr i =>
    cases i with
    | connect => exact absurd rfl hd
    | sendPhy d0 d1 m b => exact accept_outcome hp (sendPhyPacket_sat d0 d1 m b _)
    | sendPhySym q m b => exact accept_outcome hp (sendPhyPacket_sat q (complementWord q) m b _)
    | asyncRead o len =>
      refine accept_outcome (opc := 0x3) (body := fun s => (requireConnected s).andThen fun s =>
        (requireLength len.toNat s).andThen fun s =>
        sendAsync (loadReadRequest (selectReadTcode o len) o len s)) hp ?_
      refine (requireConnected_sat _).bind ?_
      rintro t ⟨rfl, hg⟩
      refine (requireLength_sat _ _).bind ?_
      rintro _ rfl
      exact sendAsync_sat (Progress.of _ _ rfl rfl rfl rfl rfl rfl rfl rfl) hg
    | asyncWrite o b =>
      refine accept_outcome (opc := 0x4) (body := fun s => (requireConnected s).andThen fun s =>
        (requireLength b.length s).andThen fun s =>
        sendAsync (loadRequest (selectWriteTcode o (BitVec.ofNat 16 b.length)) o b s)) hp ?_
      refine (requireConnected_sat _).bind ?_
      rintro t ⟨rfl, hg⟩
      refine (requireLength_sat _ _).bind ?_
      rintro _ rfl
      exact sendAsync_sat (Progress.of _ _ rfl rfl rfl rfl rfl rfl rfl rfl) hg
    | asyncLockMaskSwap o a b => exact accept_outcome hp (asyncLockOf_sat _ o a b _)
    | asyncLockCompareSwap o a b => exact accept_outcome hp (asyncLockOf_sat _ o a b _)
    | asyncLockFetchAdd o a b => exact accept_outcome hp (asyncLockOf_sat _ o a b _)
    | asyncLockLittleAdd o a b => exact accept_outcome hp (asyncLockOf_sat _ o a b _)
    | asyncLockBoundedAdd o a b => exact accept_outcome hp (asyncLockOf_sat _ o a b _)
    | asyncLockWrapAdd o a b => exact accept_outcome hp (asyncLockOf_sat _ o a b _)
    | encodeLockMaskSwap a b => exact accept_outcome hp (encodeLockOf_sat _ a b _)
    | encodeLockCompareSwap a b => exact accept_outcome hp (encodeLockOf_sat _ a b _)
    | encodeLockFetchAdd a b => exact accept_outcome hp (encodeLockOf_sat _ a b _)
    | encodeLockLittleAdd a b => exact accept_outcome hp (encodeLockOf_sat _ a b _)
    | encodeLockBoundedAdd a b => exact accept_outcome hp (encodeLockOf_sat _ a b _)
    | encodeLockWrapAdd a b => exact accept_outcome hp (encodeLockOf_sat _ a b _)
    | decodeSelfId n ws => exact accept_outcome hp (decodeChain_sat n ws _)
    | encodeSelfId n f0 f1 => exact accept_outcome hp (encodeChain_sat n f0 f1 _)
    | scanPhyRegs phy => exact accept_outcome hp (startScan_sat phy _)
    | sendFcp b => exact accept_outcome hp (sendFcpCommand_sat b _)
    | busResetReqLong => exact accept_outcome hp (requestBusReset_sat _ _)
    | busResetReqShort => exact accept_outcome hp (requestBusReset_sat _ _)
    | illegalC _ => exact accept_outcome (body := illegalOpcode) hp (Ended.refuse (.inl rfl))
    | illegalD _ => exact accept_outcome (body := illegalOpcode) hp (Ended.refuse (.inl rfl))
    | illegalE _ => exact accept_outcome (body := illegalOpcode) hp (Ended.refuse (.inl rfl))
    | illegalF _ => exact accept_outcome (body := illegalOpcode) hp (Ended.refuse (.inl rfl))
  | reject r =>
    cases r with
    | reservedBits opc => exact accept_outcome (body := rejectReservedBits) hp (Ended.refuse (.inl rfl))
    | badAsyncLockOp =>
      refine accept_outcome (body := rejectAsyncLock) hp ((requireConnected_sat _).bind ?_)
      rintro t ⟨rfl, _⟩
      exact Ended.refuse (.inl rfl)
    | badEncodeLockOp => exact accept_outcome (body := rejectEncodeLock) hp (Ended.refuse (.inl rfl))
    | badResetKind =>
      refine accept_outcome (body := rejectResetKind) hp ((requireConnected_sat _).bind ?_)
      rintro t ⟨rfl, _⟩
      exact Ended.refuse (.inl rfl)

end Sys2Proof.Machine
end

