-- ==== Sys2Proof/Laws/Memory.lean ====
section
/-! SUPPORT. The laws of byte memories: read after write, frame, and that every operation keeps the canonical form. -/

namespace Sys2Proof.Machine

theorem readByte_of_allAbove {lo i : Nat} : ∀ {m : Memory}, allAbove lo m = true → i ≤ lo → readByte m i = unlistedByte
  | [], _, _ => rfl
  | (a, b) :: m, h, hi => by
    simp only [allAbove, Bool.and_eq_true, decide_eq_true_eq] at h
    have : a ≠ i := by omega
    simp [readByte, this, readByte_of_allAbove h.2 hi]

theorem allAbove_mono {lo lo' : Nat} (h : lo' ≤ lo) : ∀ {m : Memory}, allAbove lo m = true → allAbove lo' m = true
  | [], _ => rfl
  | (a, b) :: m, hm => by
    simp only [allAbove, Bool.and_eq_true, decide_eq_true_eq] at hm ⊢
    exact ⟨by omega, allAbove_mono h hm.2⟩

theorem readByte_consCell_same (i : Nat) (v : Byte) {m : Memory} (h : allAbove i m = true) :
    readByte (consCell i v m) i = v := by
  unfold consCell
  split
  · next hv => rw [readByte_of_allAbove h (Nat.le_refl i), hv]
  · simp [readByte]

theorem readByte_consCell_other {i j : Nat} (v : Byte) (m : Memory) (h : i ≠ j) :
    readByte (consCell i v m) j = readByte m j := by
  unfold consCell
  split <;> simp [readByte, h]

theorem allAbove_consCell {lo i : Nat} (v : Byte) {m : Memory} (h : lo < i) (hm : allAbove lo m = true) :
    allAbove lo (consCell i v m) = true := by
  unfold consCell
  split
  · exact hm
  · simp [allAbove, h, hm]

theorem wf_consCell {i : Nat} (v : Byte) {m : Memory} (ha : allAbove i m = true) (hm : Memory.wf m = true) :
    Memory.wf (consCell i v m) = true := by
  unfold consCell
  split
  · exact hm
  · simp_all [Memory.wf]

theorem allAbove_writeByte {lo i : Nat} (v : Byte) (h : lo < i) :
    ∀ {m : Memory}, allAbove lo m = true → allAbove lo (writeByte m i v) = true
  | [], hm => allAbove_consCell v h hm
  | (a, b) :: m, hm => by
    have hm' := hm
    simp only [allAbove, Bool.and_eq_true, decide_eq_true_eq] at hm'
    simp only [writeByte]
    split
    · simp [allAbove, hm'.1, allAbove_writeByte v h hm'.2]
    · split
      · exact allAbove_consCell v h hm'.2
      · exact allAbove_consCell v h hm

/-- Every write keeps the canonical form. -/
theorem writeByte_wf (i : Nat) (v : Byte) : ∀ {m : Memory}, Memory.wf m = true → Memory.wf (writeByte m i v) = true
  | [], _ => wf_consCell v rfl rfl
  | (a, b) :: m, hm => by
    have hm' := hm
    simp only [Memory.wf, Bool.and_eq_true, decide_eq_true_eq] at hm'
    simp only [writeByte]
    split
    · next h => simp [Memory.wf, hm'.1.1, allAbove_writeByte v h hm'.1.2, writeByte_wf i v hm'.2]
    · split
      · next h => exact wf_consCell v (h ▸ hm'.1.2) hm'.2
      · refine wf_consCell v ?_ hm
        simp only [allAbove, Bool.and_eq_true, decide_eq_true_eq]
        exact ⟨by omega, allAbove_mono (by omega) hm'.1.2⟩

/-- Reading a byte just written gives what was written. -/
theorem readByte_writeByte_same (i : Nat) (v : Byte) :
    ∀ {m : Memory}, Memory.wf m = true → readByte (writeByte m i v) i = v
  | [], _ => readByte_consCell_same i v rfl
  | (a, b) :: m, hm => by
    simp only [Memory.wf, Bool.and_eq_true, decide_eq_true_eq] at hm
    simp only [writeByte]
    split
    · next h =>
      have : a ≠ i := by omega
      simp [readByte, this, readByte_writeByte_same i v hm.2]
    · split
      · next h => exact readByte_consCell_same i v (h ▸ hm.1.2)
      · refine readByte_consCell_same i v ?_
        simp only [allAbove, Bool.and_eq_true, decide_eq_true_eq]
        exact ⟨by omega, allAbove_mono (by omega) hm.1.2⟩

/-- A write leaves every other byte alone. -/
theorem readByte_writeByte_other {i j : Nat} (v : Byte) (h : i ≠ j) :
    ∀ (m : Memory), readByte (writeByte m i v) j = readByte m j
  | [] => readByte_consCell_other v [] h
  | (a, b) :: m => by
    simp only [writeByte]
    split
    · simp only [readByte]
      split
      · rfl
      · exact readByte_writeByte_other v h m
    · split
      · next ha =>
        have : a ≠ j := by omega
        rw [readByte_consCell_other v m h]
        simp [readByte, this]
      · exact readByte_consCell_other v _ h

theorem writeBytes_wf : ∀ (vs : List Byte) (i : Nat) {m : Memory}, Memory.wf m = true →
    Memory.wf (writeBytes m i vs) = true
  | [], _, _, h => h
  | v :: vs, i, _, h => writeBytes_wf vs (i + 1) (writeByte_wf i v h)

/-- A block write leaves the bytes below it and from its end on alone. -/
theorem readByte_writeBytes_outside : ∀ (vs : List Byte) (i j : Nat) (m : Memory),
    (j < i ∨ i + vs.length ≤ j) → readByte (writeBytes m i vs) j = readByte m j
  | [], _, _, _, _ => rfl
  | v :: vs, i, j, m, h => by
    simp only [List.length_cons] at h
    rw [writeBytes, readByte_writeBytes_outside vs (i + 1) j _ (by omega)]
    exact readByte_writeByte_other v (by omega) m

/-- A block read of a block just written gives what was written. -/
theorem readBytes_writeBytes : ∀ (vs : List Byte) (i : Nat) (m : Memory), Memory.wf m = true →
    readBytes (writeBytes m i vs) i vs.length = vs
  | [], _, _, _ => rfl
  | v :: vs, i, m, h => by
    simp only [List.length_cons, readBytes, writeBytes]
    rw [readByte_writeBytes_outside vs (i + 1) i _ (by omega), readByte_writeByte_same i v h,
      readBytes_writeBytes vs (i + 1) _ (writeByte_wf i v h)]

theorem readBytes_length (m : Memory) : ∀ (n i : Nat), (readBytes m i n).length = n
  | 0, _ => rfl
  | n + 1, i => by simp [readBytes, readBytes_length m n]

end Sys2Proof.Machine
end

