-- ==== Sys2Proof/Laws/PerInstr.lean ====
section
/-! SUPPORT. The family `Framing`: the record of a well-formed instruction is a header and exactly the operand words the
header announces (30_encoding.md R120, R125). -/

namespace Sys2Proof.Laws.Framing

/-- The record of a well-formed instruction has the length its header fixes. -/
def Statement (i : Instr) : Prop :=
  i.wellFormed = true → ∃ h ops, encode i = h :: ops ∧ operandCount h = ops.length

theorem asyncLock_framed (sub : BitVec 4) (o : Offset) (a b : List Byte) (h : operandsFit a b = true) :
    ∃ w ops, encodeAsyncLock sub o a b = w :: ops ∧ operandCount w = ops.length := by
  refine ⟨_, _, rfl, ?_⟩
  simp [operandCount, headerW1_widths _ _ h, headerW2_widths _ _ h, offsetWords, packBytes_length]
  omega

theorem encodeLock_framed (sub : BitVec 4) (a b : List Byte) (h : operandsFit a b = true) :
    ∃ w ops, encodeEncodeLock sub a b = w :: ops ∧ operandCount w = ops.length := by
  refine ⟨_, _, rfl, ?_⟩
  simp [operandCount, headerW1_widths _ _ h, headerW2_widths _ _ h, packBytes_length]

theorem opc_place (c : BitVec 4) (r : BitVec 28) : headerOpc (place c 28 ||| place r 0) = c := by
  simp [headerOpc, field_place_same, field_place_disjoint]

theorem illegal_framed (c : BitVec 4) (hc : 12 ≤ c.toNat) (r : BitVec 28) :
    operandCount (place c 28 ||| place r 0) = 0 := by
  simp only [operandCount, opc_place]
  split <;> first | rfl | omega

theorem connect : Statement .connect := fun _ => ⟨_, _, rfl, by simp [operandCount]⟩
theorem sendPhy (d0 d1 mask bits : Word) : Statement (.sendPhy d0 d1 mask bits) :=
  fun _ => ⟨_, _, rfl, by simp [operandCount]⟩
theorem sendPhySym (q mask bits : Word) : Statement (.sendPhySym q mask bits) :=
  fun _ => ⟨_, _, rfl, by simp [operandCount]⟩
theorem asyncRead (o : Offset) (len : BitVec 16) : Statement (.asyncRead o len) :=
  fun _ => ⟨_, _, rfl, by simp [operandCount, offsetWords]⟩
theorem asyncWrite (o : Offset) (b : List Byte) : Statement (.asyncWrite o b) :=
  fun h => ⟨_, _, rfl, by simp [operandCount, offsetWords, packBytes_length, lengthArg_toNat h]; omega⟩
theorem asyncLockMaskSwap (o : Offset) (a b : List Byte) : Statement (.asyncLockMaskSwap o a b) :=
  asyncLock_framed 1 o a b
theorem asyncLockCompareSwap (o : Offset) (a b : List Byte) : Statement (.asyncLockCompareSwap o a b) :=
  asyncLock_framed 2 o a b
theorem asyncLockFetchAdd (o : Offset) (a b : List Byte) : Statement (.asyncLockFetchAdd o a b) :=
  asyncLock_framed 3 o a b
theorem asyncLockLittleAdd (o : Offset) (a b : List Byte) : Statement (.asyncLockLittleAdd o a b) :=
  asyncLock_framed 4 o a b
theorem asyncLockBoundedAdd (o : Offset) (a b : List Byte) : Statement (.asyncLockBoundedAdd o a b) :=
  asyncLock_framed 5 o a b
theorem asyncLockWrapAdd (o : Offset) (a b : List Byte) : Statement (.asyncLockWrapAdd o a b) :=
  asyncLock_framed 6 o a b
theorem encodeLockMaskSwap (a b : List Byte) : Statement (.encodeLockMaskSwap a b) := encodeLock_framed 1 a b
theorem encodeLockCompareSwap (a b : List Byte) : Statement (.encodeLockCompareSwap a b) := encodeLock_framed 2 a b
theorem encodeLockFetchAdd (a b : List Byte) : Statement (.encodeLockFetchAdd a b) := encodeLock_framed 3 a b
theorem encodeLockLittleAdd (a b : List Byte) : Statement (.encodeLockLittleAdd a b) := encodeLock_framed 4 a b
theorem encodeLockBoundedAdd (a b : List Byte) : Statement (.encodeLockBoundedAdd a b) := encodeLock_framed 5 a b
theorem encodeLockWrapAdd (a b : List Byte) : Statement (.encodeLockWrapAdd a b) := encodeLock_framed 6 a b
theorem decodeSelfId (n : BitVec 16) (ws : List Word) : Statement (.decodeSelfId n ws) := fun h =>
  ⟨_, _, rfl, by
    have h : ws.length = selfIdWordCount n := by simpa [Instr.wellFormed] using h
    simp [operandCount, h]⟩
theorem encodeSelfId (n : BitVec 16) (f0 f1 : Word) : Statement (.encodeSelfId n f0 f1) :=
  fun _ => ⟨_, _, rfl, by simp [operandCount]⟩
theorem scanPhyRegs (phy : BitVec 6) : Statement (.scanPhyRegs phy) := fun _ => ⟨_, _, rfl, by simp [operandCount]⟩
theorem sendFcp (b : List Byte) : Statement (.sendFcp b) :=
  fun h => ⟨_, _, rfl, by simp [operandCount, packBytes_length, lengthArg_toNat h]⟩
theorem busResetReqLong : Statement .busResetReqLong := fun _ => ⟨_, _, rfl, by simp [operandCount]⟩
theorem busResetReqShort : Statement .busResetReqShort := fun _ => ⟨_, _, rfl, by simp [operandCount]⟩
theorem illegalC (r : BitVec 28) : Statement (.illegalC r) := fun _ => ⟨_, _, rfl, illegal_framed 0xC (by decide) r⟩
theorem illegalD (r : BitVec 28) : Statement (.illegalD r) := fun _ => ⟨_, _, rfl, illegal_framed 0xD (by decide) r⟩
theorem illegalE (r : BitVec 28) : Statement (.illegalE r) := fun _ => ⟨_, _, rfl, illegal_framed 0xE (by decide) r⟩
theorem illegalF (r : BitVec 28) : Statement (.illegalF r) := fun _ => ⟨_, _, rfl, illegal_framed 0xF (by decide) r⟩

end Sys2Proof.Laws.Framing
end

