-- ==== Sys2Proof/Laws/Polls.lean ====
section
/-! SUPPORT. What one poll of a wait phase can do, once for the four phases (`poll_outcome`), and what a step outside them
can do (`acceptStep_outcome`). -/

namespace Sys2Proof.Machine

/-- A poll that began at `s` has taken one answer, may have updated the bus context, and has then made progress to `t`. -/
def Polled (s t : State) : Prop :=
  ∃ g loc root, Progress
    { s.takePoll with ctx := { s.ctx with gen := g, localNode := loc, rootNode := root } } t

/-- A poll that began at `s` has ended the command at `t`, with one result record that is no validation fault. -/
def PollEnded (s t : State) : Prop :=
  ∃ u ws, Polled s u ∧ t = { u with faultRegs := t.faultRegs, resOut := u.resOut ++ [ws], phase := t.phase } ∧
    ¬ (field (ws.headD 0) 28 4 = 6 ∨ field (ws.headD 0) 28 4 = 7) ∧ (t.phase = .idle ∨ t.phase = .faulted)

theorem Polled.step {s u v : State} (h : Polled s u) (k : Progress u v) : Polled s v := by
  obtain ⟨g, l, r, h⟩ := h
  exact ⟨g, l, r, h.trans k⟩

theorem Polled.start (s : State) : Polled s s.takePoll :=
  ⟨s.ctx.gen, s.ctx.localNode, s.ctx.rootNode, Progress.refl _⟩

theorem Polled.phase_eq {s t : State} (h : Polled s t) : t.phase = s.phase := by
  obtain ⟨_, _, _, h⟩ := h
  exact h.phase

theorem PollEnded.finish {s u : State} (h : Polled s u) {st : BitVec 4} {rc : BitVec 5} {info : Word}
    {data : List Byte} (hst : st = 0 ∨ st = 1) : PollEnded s (finish st rc info data u) := by
  refine ⟨u, _, h, rfl, ?_, .inl rfl⟩
  rw [resultWords_status]
  rcases hst with rfl | rfl <;> simp

theorem PollEnded.raiseReporting {s u : State} (h : Polled s u) {k : FaultKind} {info ri : Word} {data : List Byte}
    (hk : k ≠ .invalidArgument ∧ k ≠ .invalidOperandWidth) : PollEnded s (raiseReporting k info ri data u) := by
  refine ⟨u, _, h, rfl, ?_, ?_⟩
  · rw [resultWords_status]
    cases k <;> simp [FaultKind.code] at hk ⊢
  · cases k <;> simp [raiseReporting_eq]

theorem PollEnded.raise {s u : State} (h : Polled s u) {k : FaultKind} {info : Word}
    (hk : k ≠ .invalidArgument ∧ k ≠ .invalidOperandWidth) : PollEnded s (raise k info u) :=
  PollEnded.raiseReporting h hk

/-- The event of a poll, and the state with it: what the rest of the poll starts from. -/
theorem nextEvent_state {s u : State} {e : Event} (h : nextEvent s = .event e u) :
    u = onBusReset e s.takePoll := by
  obtain ⟨r, _, _, _, _, rfl⟩ := nextEvent_event h
  rfl

theorem nextEvent_polled {s u : State} {e : Event} (h : nextEvent s = .event e u) : Polled s u := by
  rw [nextEvent_state h]
  obtain ⟨g, l, r, hb⟩ := onBusReset_eq e s.takePoll
  rw [hb]
  exact ⟨g, l, r, Progress.refl _⟩

theorem nextEvent_timeout_polled {s u : State} (h : nextEvent s = .timeout u) : Polled s u := by
  obtain ⟨_, rfl⟩ := nextEvent_timeout h
  exact Polled.start s

theorem nextEvent_ended_outcome {s u : State} (h : nextEvent s = .ended u) : PollEnded s u := by
  rcases nextEvent_ended h with rfl | rfl | rfl <;> exact PollEnded.raise (Polled.start s) (by simp)

/-! ## The handlers -/

theorem submit_polled {s u : State} (h : Polled s u) (x : Submission) (hx : stampedWith u.ctx.gen x) :
    (submit x u).Sat (Polled s) (PollEnded s) := by
  unfold submit
  split
  · exact h.step (Progress.putSub u x hx)
  · exact PollEnded.raise (h.step (Progress.putSub u x hx)) (by simp)

theorem submitAsync_polled {s u : State} (h : Polled s u) : (submitAsync u).Sat (Polled s) (PollEnded s) := by
  unfold submitAsync
  refine (submit_polled (h.step (Progress.of u (stampRequest u) rfl rfl rfl rfl rfl rfl rfl rfl)) _
    (by exact ⟨rfl, rfl⟩)).bind ?_
  intro t ht
  exact ht.step (Progress.of t (countSubmission t) rfl rfl rfl rfl rfl rfl rfl rfl)

theorem onPhyEvent_sat {s u : State} (e : Event) (h : Polled s u) : (onPhyEvent e u).Sat (Polled s) (PollEnded s) := by
  cases e with
  | sent st tk =>
    simp only [onPhyEvent, onPhySent]
    split
    · exact h.step (Progress.of _ _ rfl rfl rfl rfl rfl rfl rfl rfl)
    · exact PollEnded.raise h (by simp)
  | phyReceived w =>
    simp only [onPhyEvent, onPhyReceived]
    split
    · split <;> exact h.step (Progress.of _ _ rfl rfl rfl rfl rfl rfl rfl rfl)
    · exact h
  | busReset g r l => exact PollEnded.raise h (by simp)
  | asyncResponse _ _ _ _ => exact h
  | asyncRequest _ _ _ _ _ => exact h
  | other => exact h

theorem onAsyncEvent_sat {s u : State} (e : Event) (h : Polled s u) :
    (onAsyncEvent e u).Sat (Polled s) (PollEnded s) := by
  cases e with
  | asyncResponse rc n p hd =>
    have hr : Polled s (storeResponse rc n p u) := h.step (Progress.of _ _ rfl rfl rfl rfl rfl rfl rfl rfl)
    simp only [onAsyncEvent, onAsyncResponse]
    split
    · split
      · exact PollEnded.finish hr (.inr rfl)
      · exact submitAsync_polled h
    · exact PollEnded.finish (st := if rc = rcodeComplete then statusOk else statusRemoteError) hr
        (by split <;> simp [statusOk, statusRemoteError])
  | busReset _ _ _ => exact h
  | asyncRequest _ _ _ _ _ => exact h
  | sent _ _ => exact h
  | phyReceived _ => exact h
  | other => exact h

theorem onFcpEvent_sat {s u : State} (e : Event) (h : Polled s u) : (onFcpEvent e u).Sat (Polled s) (PollEnded s) := by
  cases e with
  | asyncResponse rc n p hd =>
    have hr : Polled s (storeFcpAck rc u) := h.step (Progress.of _ _ rfl rfl rfl rfl rfl rfl rfl rfl)
    simp only [onFcpEvent, onFcpResponse]
    split
    · exact h
    · split
      · exact hr.step (Progress.of _ _ rfl rfl rfl rfl rfl rfl rfl rfl)
      · exact PollEnded.finish hr (.inr rfl)
  | asyncRequest hd tc o m p =>
    simp only [onFcpEvent, onFcpRequest]
    split
    · refine (submit_polled h _ (by trivial)).bind ?_
      intro t ht
      split
      · exact ht
      · exact ht.step (Progress.of _ _ rfl rfl rfl rfl rfl rfl rfl rfl)
    · exact h
  | busReset _ _ _ => exact PollEnded.raise h (by simp)
  | sent _ _ => exact h
  | phyReceived _ => exact h
  | other => exact h

theorem onScanEvent_sat {s u : State} (e : Event) (h : Polled s u) :
    (onScanEvent e u).Sat (Polled s) (PollEnded s) := by
  cases e with
  | phyReceived w =>
    simp only [onScanEvent, onScanReply]
    split
    · exact h.step (Progress.of _ _ rfl rfl rfl rfl rfl rfl rfl rfl)
    · exact h
  | sent st tk =>
    simp only [onScanEvent]
    split
    · exact h
    · exact PollEnded.raise h (by simp)
  | busReset _ _ _ => exact PollEnded.raise h (by simp)
  | asyncResponse _ _ _ _ => exact h
  | asyncRequest _ _ _ _ _ => exact h
  | other => exact h

/-! ## The polls -/

/-- The completion test after a handler. -/
theorem completed_outcome {s : State} {f : Flow} {c : State → State} (h : f.Sat (Polled s) (PollEnded s))
    (hc : ∀ t, Polled s t → Polled s (c t) ∨ PollEnded s (c t)) :
    Polled s (f.andThen fun t => .go (c t)).state ∨ PollEnded s (f.andThen fun t => .go (c t)).state := by
  cases f with
  | go t => exact hc t h
  | ended t => exact .inr h

theorem pollPhy_outcome (s : State) : Polled s (pollPhy s) ∨ PollEnded s (pollPhy s) := by
  unfold pollPhy
  cases he : nextEvent s with
  | ended u => exact .inr (nextEvent_ended_outcome he)
  | timeout u => exact .inr (PollEnded.raise (nextEvent_timeout_polled he) (by simp))
  | event e u =>
    refine completed_outcome (onPhyEvent_sat e (nextEvent_polled he)) fun t ht => ?_
    unfold completePhy
    split
    · exact .inr (PollEnded.finish ht (.inl rfl))
    · exact .inl ht

theorem pollAsync_outcome (s : State) : Polled s (pollAsync s) ∨ PollEnded s (pollAsync s) := by
  unfold pollAsync
  cases he : nextEvent s with
  | ended u => exact .inr (nextEvent_ended_outcome he)
  | timeout u => exact .inr (PollEnded.raise (nextEvent_timeout_polled he) (by simp))
  | event e u =>
    have := onAsyncEvent_sat e (nextEvent_polled he)
    simp only
    cases hf : onAsyncEvent e u with
    | go t => rw [hf] at this; exact .inl this
    | ended t => rw [hf] at this; exact .inr this

theorem pollFcp_outcome (s : State) : Polled s (pollFcp s) ∨ PollEnded s (pollFcp s) := by
  unfold pollFcp
  cases he : nextEvent s with
  | ended u => exact .inr (nextEvent_ended_outcome he)
  | timeout u => exact .inr (PollEnded.raise (nextEvent_timeout_polled he) (by simp))
  | event e u =>
    refine completed_outcome (onFcpEvent_sat e (nextEvent_polled he)) fun t ht => ?_
    unfold completeFcp
    split
    · exact .inr (PollEnded.finish ht (.inl rfl))
    · exact .inl ht

theorem pollScan_outcome (s : State) : Polled s (pollScan s) ∨ PollEnded s (pollScan s) := by
  unfold pollScan
  cases he : nextEvent s with
  | ended u => exact .inr (nextEvent_ended_outcome he)
  | timeout u => exact .inr (PollEnded.raiseReporting (nextEvent_timeout_polled he) (by simp))
  | event e u =>
    refine completed_outcome (onScanEvent_sat e (nextEvent_polled he)) fun t ht => ?_
    unfold completeScan
    split
    · exact .inr (PollEnded.finish ht (.inl rfl))
    · exact .inl ht

/-- All that a step of a wait phase can do. -/
theorem poll_outcome {s t : State} (hw : s.phase.waiting = true) (h : step s = .next t) :
    Polled s t ∨ PollEnded s t := by
  cases hp : s.phase <;> simp [hp, Phase.waiting] at hw <;>
    simp only [step, hp, Host.Outcome.next.injEq] at h <;> subst h
  · exact pollPhy_outcome s
  · exact pollAsync_outcome s
  · exact pollFcp_outcome s
  · exact pollScan_outcome s

/-- All that a step outside the wait phases can do: nothing, answer the stored fault, or run the record. -/
theorem acceptStep_outcome {s t : State} (hw : s.phase.waiting = false) (h : step s = .next t) :
    (decode s.cmdIn = none ∧ t = s) ∨ ∃ d rest, decode s.cmdIn = some (d, rest) ∧
      ((s.phase = .faulted ∧ t = answerFaulted (recordOpcode d) (s.setCmdIn rest)) ∨
        (s.phase = .idle ∧ runRecord d (s.setCmdIn rest) = .next t)) := by
  have key : acceptStep s = .next t → (decode s.cmdIn = none ∧ t = s) ∨
      ∃ d rest, decode s.cmdIn = some (d, rest) ∧ runRecord d (s.setCmdIn rest) = .next t := by
    intro h
    unfold acceptStep takeRecord at h
    cases hd : decode s.cmdIn with
    | none => rw [hd] at h; simp at h; exact .inl ⟨rfl, h.symm⟩
    | some p => obtain ⟨d, rest⟩ := p; rw [hd] at h; exact .inr ⟨d, rest, rfl, h⟩
  cases hp : s.phase <;> simp [hp, Phase.waiting] at hw <;> simp only [step, hp] at h
  · rcases key h with h | ⟨d, rest, h1, h2⟩
    · exact .inl h
    · exact .inr ⟨d, rest, h1, .inr ⟨rfl, h2⟩⟩
  · cases h
  · cases h
  · rcases key h with h | ⟨d, rest, h1, h2⟩
    · exact .inl h
    · refine .inr ⟨d, rest, h1, .inl ⟨rfl, ?_⟩⟩
      rw [runRecord_faulted d (s := s.setCmdIn rest) hp] at h2
      exact (Host.Outcome.next.inj h2).symm

end Sys2Proof.Machine
end

