-- ==== Sys2Proof/Laws/SelfId.lean ====
section
/-! SUPPORT. The port fields that the Self-ID encoder places and the decoder reads (46_self_id.md R423, R427). -/

namespace Sys2Proof.Machine

/-- A run of 2-bit values placed at distinct even positions, read back at one of them. -/
theorem field_foldl_place (v : Nat → BitVec 2) (top p : Nat) : ∀ (qs : List Nat) (w : Word), top < 31 →
    2 * p ≤ top → (∀ q ∈ qs, 2 * q ≤ top) → qs.Nodup →
    field (qs.foldl (fun acc q => acc ||| place (v q) (top - 2 * q)) w) (top - 2 * p) 2
      = field w (top - 2 * p) 2 ||| (if p ∈ qs then v p else 0)
  | [], w, _, _, _, _ => by simp
  | q :: qs, w, ht, hp, hq, hn => by
    have hq0 : 2 * q ≤ top := hq q (by simp)
    obtain ⟨hnq, hn'⟩ := List.nodup_cons.1 hn
    rw [List.foldl_cons, field_foldl_place v top p qs _ ht hp (fun r hr => hq r (by simp [hr])) hn', field_or]
    by_cases h : q = p
    · subst h
      rw [field_place_same _ (by omega)]
      simp [hnq]
    · rw [field_place_disjoint _ (by omega)]
      simp [List.mem_cons, Ne.symm h]

theorem field_zero (lo n : Nat) : field (0 : Word) lo n = 0 := by simp [field]

/-- A fields record's word from its sixteen port fields. -/
theorem eq_of_portFields {f g : Word} (h : ∀ p, p < 16 → portField f p = portField g p) : f = g := by
  apply BitVec.eq_of_getLsbD_eq
  intro i hi
  have := congrArg (fun v => v.getLsbD (i % 2)) (h (15 - i / 2) (by omega))
  simp only [portField, getLsbD_field] at this
  rw [show 30 - 2 * (15 - i / 2) + i % 2 = i by omega] at this
  simpa [show i % 2 < 2 by omega, -BitVec.getLsbD_eq_getElem] using this

/-- The port fields of packet #1 (46_self_id.md R427). -/
theorem selfIdWord1_port (f0 f1 : Word) (n j : Nat) (hj : j < 8) :
    field (selfIdWord1 n f0 f1) (16 - 2 * j) 2 = portField f1 (3 + j) := by
  unfold selfIdWord1
  rw [field_foldl_place (fun q => portField f1 (3 + q)) 16 j _ _ (by omega) (by omega)
    (by intro q hq; have := List.mem_range.1 hq; omega) (List.nodup_range)]
  simp only [field_or]
  have hm : field (if 2 < n then (1 : Word) else 0) (16 - 2 * j) 2 = 0 := by
    split
    · apply BitVec.eq_of_getLsbD_eq; intro i hi; rw [getLsbD_field]; simp; omega
    · exact field_zero _ _
  have h1 : field 0x80000000 (16 - 2 * j) 2 = 0 := by interval_cases j <;> rfl
  have h2 : field 0x00800000 (16 - 2 * j) 2 = 0 := by interval_cases j <;> rfl
  have h3 : field (fieldsPhy f0) (16 - 2 * j) 2 = 0 := field_place_disjoint _ (by omega)
  rw [hm, h1, h2, h3]
  simp [hj]

/-- The port fields of packet #2 (46_self_id.md R427). -/
theorem selfIdWord2_port (f0 f1 : Word) (j : Nat) (hj : j < 5) :
    field (selfIdWord2 f0 f1) (16 - 2 * j) 2 = portField f1 (11 + j) := by
  unfold selfIdWord2
  rw [field_foldl_place (fun q => portField f1 (11 + q)) 16 j _ _ (by omega) (by omega)
    (by intro q hq; have := List.mem_range.1 hq; omega) (List.nodup_range)]
  simp only [field_or]
  have h1 : field 0x80000000 (16 - 2 * j) 2 = 0 := by interval_cases j <;> rfl
  have h2 : field 0x00800000 (16 - 2 * j) 2 = 0 := by interval_cases j <;> rfl
  have h3 : field 0x00100000 (16 - 2 * j) 2 = 0 := by interval_cases j <;> rfl
  have h4 : field (fieldsPhy f0) (16 - 2 * j) 2 = 0 := field_place_disjoint _ (by omega)
  rw [h1, h2, h3, h4]
  simp [hj]

/-- The `m` bit of packet #1 (46_self_id.md R428). -/
theorem selfIdWord1_more (n : Nat) (f0 f1 : Word) : moreFollows (selfIdWord1 n f0 f1) = decide (2 < n) := by
  unfold moreFollows selfIdWord1
  rw [show List.range 8 = [0, 1, 2, 3, 4, 5, 6, 7] from rfl]
  simp only [List.foldl_cons, List.foldl_nil, field_or, fieldsPhy, phyIdBits]
  simp only [field_place_disjoint _ (show 0 + 1 ≤ 24 ∨ 24 + 6 ≤ 0 by omega),
    field_place_disjoint _ (show 0 + 1 ≤ 16 - 2 * 0 ∨ 16 - 2 * 0 + 2 ≤ 0 by omega),
    field_place_disjoint _ (show 0 + 1 ≤ 16 - 2 * 1 ∨ 16 - 2 * 1 + 2 ≤ 0 by omega),
    field_place_disjoint _ (show 0 + 1 ≤ 16 - 2 * 2 ∨ 16 - 2 * 2 + 2 ≤ 0 by omega),
    field_place_disjoint _ (show 0 + 1 ≤ 16 - 2 * 3 ∨ 16 - 2 * 3 + 2 ≤ 0 by omega),
    field_place_disjoint _ (show 0 + 1 ≤ 16 - 2 * 4 ∨ 16 - 2 * 4 + 2 ≤ 0 by omega),
    field_place_disjoint _ (show 0 + 1 ≤ 16 - 2 * 5 ∨ 16 - 2 * 5 + 2 ≤ 0 by omega),
    field_place_disjoint _ (show 0 + 1 ≤ 16 - 2 * 6 ∨ 16 - 2 * 6 + 2 ≤ 0 by omega),
    field_place_disjoint _ (show 0 + 1 ≤ 16 - 2 * 7 ∨ 16 - 2 * 7 + 2 ≤ 0 by omega)]
  by_cases h : 2 < n <;> simp [h] <;> decide

/-- The phy id of `F0` stays where it is. -/
theorem fieldsPhy_eq (f0 : Word) : fieldsPhy f0 = f0 &&& 0x3F000000 := by
  have hm : ∀ i : Nat, (0x3F000000 : Word).getLsbD i = (decide (24 ≤ i) && decide (i < 30)) := by
    intro i
    by_cases hi : i < 32
    · interval_cases i <;> rfl
    · rw [BitVec.getLsbD_of_ge _ _ (by omega)]; symm; simp; omega
  apply BitVec.eq_of_getLsbD_eq
  intro i hi
  rw [fieldsPhy, phyIdBits, getLsbD_place, BitVec.getLsbD_and, hm, getLsbD_field]
  by_cases h : 24 ≤ i
  · by_cases h2 : i < 30
    · simp [hi, h, h2, show i - 24 < 6 by omega, show 24 + (i - 24) = i by omega]
    · simp [h, h2, show ¬ (i - 24 < 6) by omega]
  · simp [h]

/-- Packet #1 with its eight ports written out. -/
theorem selfIdWord1_eq (n : Nat) (f0 f1 : Word) :
    selfIdWord1 n f0 f1 = 0x80000000#32 ||| (f0 &&& 0x3F000000#32) ||| 0x00800000#32
      ||| (place (portField f1 3) 16 ||| place (portField f1 4) 14 ||| place (portField f1 5) 12
        ||| place (portField f1 6) 10 ||| place (portField f1 7) 8 ||| place (portField f1 8) 6
        ||| place (portField f1 9) 4 ||| place (portField f1 10) 2) ||| (if 2 < n then 1#32 else 0#32) := by
  have hr : List.range 8 = [0, 1, 2, 3, 4, 5, 6, 7] := rfl
  unfold selfIdWord1
  rw [hr, fieldsPhy_eq]
  simp only [List.foldl_cons, List.foldl_nil]
  show 0x80000000#32 ||| (f0 &&& 0x3F000000#32) ||| 0x00800000#32 ||| (if 2 < n then 1#32 else 0#32)
    ||| place (portField f1 3) 16 ||| place (portField f1 4) 14 ||| place (portField f1 5) 12
    ||| place (portField f1 6) 10 ||| place (portField f1 7) 8 ||| place (portField f1 8) 6
    ||| place (portField f1 9) 4 ||| place (portField f1 10) 2 = _
  generalize 0x80000000#32 ||| (f0 &&& 0x3F000000#32) ||| 0x00800000#32 = c
  generalize (if 2 < n then 1#32 else 0#32) = m
  generalize place (portField f1 3) 16 = a3
  generalize place (portField f1 4) 14 = a4
  generalize place (portField f1 5) 12 = a5
  generalize place (portField f1 6) 10 = a6
  generalize place (portField f1 7) 8 = a7
  generalize place (portField f1 8) 6 = a8
  generalize place (portField f1 9) 4 = a9
  generalize place (portField f1 10) 2 = a10
  ac_rfl

/-- Packet #2 with its five ports written out. -/
theorem selfIdWord2_eq (f0 f1 : Word) :
    selfIdWord2 f0 f1 = 0x80000000#32 ||| (f0 &&& 0x3F000000#32) ||| 0x00900000#32
      ||| (place (portField f1 11) 16 ||| place (portField f1 12) 14 ||| place (portField f1 13) 12
        ||| place (portField f1 14) 10 ||| place (portField f1 15) 8) := by
  have hr : List.range 5 = [0, 1, 2, 3, 4] := rfl
  have h9 : 0x00900000#32 = 0x00800000#32 ||| 0x00100000#32 := rfl
  unfold selfIdWord2
  rw [hr, fieldsPhy_eq, h9]
  simp only [List.foldl_cons, List.foldl_nil]
  show 0x80000000#32 ||| (f0 &&& 0x3F000000#32) ||| 0x00800000#32 ||| 0x00100000#32
    ||| place (portField f1 11) 16 ||| place (portField f1 12) 14 ||| place (portField f1 13) 12
    ||| place (portField f1 14) 10 ||| place (portField f1 15) 8 = _
  generalize place (portField f1 11) 16 = a11
  generalize place (portField f1 12) 14 = a12
  generalize place (portField f1 13) 12 = a13
  generalize place (portField f1 14) 10 = a14
  generalize place (portField f1 15) 8 = a15
  simp only [BitVec.or_assoc]

end Sys2Proof.Machine
end

