-- ==== Sys2Proof/Tests/Slice0.lean ====
section
/-! SUPPORT. Tests: well-formedness smoke tests, one decoded word per constructor, one-step tests, and a witness for every
obligation with hypotheses. Expected values are the spec's: words written out from 30_encoding.md R120-R126, results from
the vectors of 95_test_vectors.md (named in each test). -/

namespace Sys2Proof.Tests

open Sys2Proof Sys2Proof.Machine Sys2Proof.Claims

/-! ## Ill-formed terms are refused -/

/-- ARG has 16 bits: 65536 payload bytes do not fit (R121). -/
theorem test_wf_write_too_long : (Instr.asyncWrite 0 (List.replicate 65536 0)).wellFormed = false := by
  simp only [Instr.wellFormed, payloadFits, List.length_replicate]; decide

theorem test_wf_fcp_too_long : (Instr.sendFcp (List.replicate 65536 0)).wellFormed = false := by
  simp only [Instr.wellFormed, payloadFits, List.length_replicate]; decide

/-- A lock width has 8 bits (R124). -/
theorem test_wf_lock_operand1_too_wide :
    (Instr.asyncLockMaskSwap 0 (List.replicate 256 0) []).wellFormed = false := by
  simp only [Instr.wellFormed, operandsFit, List.length_replicate]; decide

theorem test_wf_lock_operand2_too_wide :
    (Instr.encodeLockWrapAdd [] (List.replicate 256 0)).wellFormed = false := by
  simp only [Instr.wellFormed, operandsFit, List.length_replicate]; decide

/-- A count outside 1 to 3 brings no word; a count of 2 brings 2 (R125). -/
theorem test_wf_chain_words : (Instr.decodeSelfId 4 [0]).wellFormed = false ∧
    (Instr.decodeSelfId 0 [0]).wellFormed = false ∧ (Instr.decodeSelfId 2 [0]).wellFormed = false ∧
    (Instr.decodeSelfId 2 [0, 0]).wellFormed = true := by decide

/-! ## Decoding, a word for each constructor (R124) -/

theorem test_decode_connect : decode [0x00000000] = some (.instr .connect, []) := by decide

theorem test_decode_sendPhy : decode [0x10000000, 0x02000000, 0xFDFFFFFF, 0xFF000000, 0x82000000, 0x00000000]
    = some (.instr (.sendPhy 0x02000000 0xFDFFFFFF 0xFF000000 0x82000000), [0]) := by decide

theorem test_decode_sendPhySym : decode [0x20000000, 0x01000000, 0xFF000000, 0x81000000]
    = some (.instr (.sendPhySym 0x01000000 0xFF000000 0x81000000), []) := by decide

theorem test_decode_asyncRead : decode [0x30000201, 0x0000FFFF, 0xF0000400]
    = some (.instr (.asyncRead 0xFFFFF0000400 513), []) := by decide

/-- Padding is ignored (R122). -/
theorem test_decode_asyncWrite : decode [0x40000005, 0x00001234, 0x00001000, 0x01020304, 0x05AABBCC]
    = some (.instr (.asyncWrite 0x123400001000 [1, 2, 3, 4, 5]), []) := by decide

theorem test_decode_asyncLockMaskSwap : decode [0x51000404, 0, 0x00003000, 0x0000FFFF, 0x00001234]
    = some (.instr (.asyncLockMaskSwap 0x3000 [0, 0, 0xFF, 0xFF] [0, 0, 0x12, 0x34]), []) := by decide

theorem test_decode_asyncLockCompareSwap : decode [0x52000404, 0, 0x00003000, 1, 2]
    = some (.instr (.asyncLockCompareSwap 0x3000 [0, 0, 0, 1] [0, 0, 0, 2]), []) := by decide

theorem test_decode_asyncLockFetchAdd : decode [0x53000400, 0x0000FFFF, 0x00002000, 1]
    = some (.instr (.asyncLockFetchAdd 0xFFFF00002000 [0, 0, 0, 1] []), []) := by decide

theorem test_decode_asyncLockLittleAdd : decode [0x54000400, 0, 0x00003000, 0x02000000]
    = some (.instr (.asyncLockLittleAdd 0x3000 [2, 0, 0, 0] []), []) := by decide

theorem test_decode_asyncLockBoundedAdd : decode [0x55000404, 0, 0x00003000, 0xA, 1]
    = some (.instr (.asyncLockBoundedAdd 0x3000 [0, 0, 0, 10] [0, 0, 0, 1]), []) := by decide

theorem test_decode_asyncLockWrapAdd : decode [0x56000404, 0, 0x00003000, 0xA, 0]
    = some (.instr (.asyncLockWrapAdd 0x3000 [0, 0, 0, 10] [0, 0, 0, 0]), []) := by decide

theorem test_decode_encodeLockMaskSwap : decode [0x61000808, 0x0000FFFF, 0, 0xFFFFFFFF, 0x00001234]
    = some (.instr (.encodeLockMaskSwap [0, 0, 0xFF, 0xFF, 0, 0, 0, 0]
        [0xFF, 0xFF, 0xFF, 0xFF, 0, 0, 0x12, 0x34]), []) := by decide

/-- Operand 2 follows operand 1 with no padding in between (R124). -/
theorem test_decode_encodeLockCompareSwap : decode [0x62000202, 0x00010002]
    = some (.instr (.encodeLockCompareSwap [0, 1] [0, 2]), []) := by decide

theorem test_decode_encodeLockFetchAdd : decode [0x63000800, 0, 1]
    = some (.instr (.encodeLockFetchAdd [0, 0, 0, 0, 0, 0, 0, 1] []), []) := by decide

theorem test_decode_encodeLockLittleAdd : decode [0x64000400, 0x02000000]
    = some (.instr (.encodeLockLittleAdd [2, 0, 0, 0] []), []) := by decide

theorem test_decode_encodeLockBoundedAdd : decode [0x65000404, 0xA, 1]
    = some (.instr (.encodeLockBoundedAdd [0, 0, 0, 10] [0, 0, 0, 1]), []) := by decide

theorem test_decode_encodeLockWrapAdd : decode [0x66000404, 0xA, 0]
    = some (.instr (.encodeLockWrapAdd [0, 0, 0, 10] [0, 0, 0, 0]), []) := by decide

theorem test_decode_decodeSelfId : decode [0x70000002, 0x817F84E5, 0x81800000, 0x30000004]
    = some (.instr (.decodeSelfId 2 [0x817F84E5, 0x81800000]), [0x30000004]) := by decide

theorem test_decode_encodeSelfId : decode [0x80000003, 0x027F8802, 0xF9394E71]
    = some (.instr (.encodeSelfId 3 0x027F8802 0xF9394E71), []) := by decide

theorem test_decode_scanPhyRegs : decode [0x9000003F] = some (.instr (.scanPhyRegs 63), []) := by decide

theorem test_decode_sendFcp : decode [0xA0000004, 0x01FF1900]
    = some (.instr (.sendFcp [0x01, 0xFF, 0x19, 0x00]), []) := by decide

theorem test_decode_busResetReqLong : decode [0xB0000000] = some (.instr .busResetReqLong, []) := by decide

theorem test_decode_busResetReqShort : decode [0xB1000000] = some (.instr .busResetReqShort, []) := by decide

theorem test_decode_illegalC : decode [0xC0FF0001] = some (.instr (.illegalC 0x0FF0001), []) := by decide

theorem test_decode_illegalD : decode [0xD0000000] = some (.instr (.illegalD 0), []) := by decide

theorem test_decode_illegalE : decode [0xEFFFFFFF] = some (.instr (.illegalE 0xFFFFFFF), []) := by decide

theorem test_decode_illegalF : decode [0xF1234567] = some (.instr (.illegalF 0x1234567), []) := by decide

/-- Records that are no row of the table: CX9, SC10, AS15, LK10, LK11, CX7. -/
theorem test_decode_rejects :
    decode [0xB1000001] = some (.reject (.reservedBits 0xB), []) ∧
    decode [0x90000041] = some (.reject (.reservedBits 0x9), []) ∧
    decode [0x30000004, 0x00010000, 0] = some (.reject (.reservedBits 0x3), []) ∧
    decode [0x60000404, 1, 2] = some (.reject .badEncodeLockOp, []) ∧
    decode [0x57000404, 0, 0, 1, 2] = some (.reject .badAsyncLockOp, []) ∧
    decode [0xB2000000] = some (.reject .badResetKind, []) := by decide

/-- A record is not taken before its last word is there (R120). -/
theorem test_decode_partial : decode [0x30000004, 0x0000FFFF] = none ∧ decode [] = none := by decide

/-- The table numbers bit 0 as the least significant bit of the header; later words count on (opcode_table.json). -/
theorem test_decode_table_word :
    decodeTableWord 96 0xF00004000000FFFF30000004 = some (.asyncRead 0xFFFFF0000400 4) ∧
    decodeTableWord 32 0x70000001 = some (.decodeSelfId 1 [0]) ∧
    decodeTableWord 32 0x60000404 = none := by decide

/-- The host's fetch: the record runs as the first one after reset (CX11). -/
theorem test_fetch_word : step (State.reset.withFetchWord 32 0xC0000000)
    = exec (.illegalC 0) State.reset := by rfl

/-! ## The machine the vectors start from -/

/-- The state after a step; a stop gives `State.reset`. -/
def after (s : State) : State :=
  match step s with
  | .next t => t
  | .fault _ => State.reset
  | .refused _ => State.reset

/-- The "connected" state of 95_test_vectors.md, where the kernel accepts the next nine submissions. -/
def connected : State :=
  { State.reset with
    ctx := { State.reset.ctx with gen := 5, genValid := true, rootNode := 1 },
    submitAnswers := List.replicate 9 (.ok 0) }

/-- A state with a record on CMD_IN. -/
def given (s : State) (ws : List Word) : State := { s with cmdIn := ws }

/-- A state with one answer of ENV on EVT_IN. -/
def polling (s : State) (a : PollAnswer) : State := { s with evtIn := [a] }

/-- A state with one event on EVT_IN. -/
def seeing (s : State) (r : EventRecord) : State := polling s (.event r)

def busResetEvent : EventRecord := { type := 0x00, len := 12, generation := 6, rootNode := 1, localNode := 0 }
def sentEvent (status : BitVec 5) (ticks : Word) : EventRecord := { type := 0x08, len := 12, status := status, ticks := ticks }
def phyEvent (w : Word) : EventRecord := { type := 0x09, len := 12, data := w }
def responseEvent (rc : BitVec 5) (p : List Byte) : EventRecord := { type := 0x01, len := 12, rcode := rc, payload := p }
def requestEvent (h : Nat) (o : Offset) (p : List Byte) : EventRecord :=
  { type := 0x06, len := 12, handle := h, offset := o, payload := p }
def shortEvent : EventRecord := { type := 0x08, len := 4 }
def unknownEvent : EventRecord := { type := 0x05, len := 12 }

/-- AS1's record. -/
def readRecord : List Word := [0x30000004, 0x0000FFFF, 0xF0000400]

/-- AS1 in ASYNC_WAIT. -/
def reading : State := after (given connected readRecord)

/-- Parameters under which a BUS_RESET record of 12 bytes is too short. -/
def longReset : Params := { reading.params with minLenBusReset := 16 }

/-- Parameters of a block whose device handle was never opened (R216). -/
def unopened : Params := { State.reset.params with deviceHandle := none }

/-- PING 1 (PH2) in PHY_WAIT. -/
def pinging : State := after (given connected [0x20000000, 0x01000000, 0xFF000000, 0x81000000])

/-- SCAN_PHY_REGS 1 (SC1) in SCAN_WAIT. -/
def scanning : State := after (given connected [0x90000001])

/-- FC1 in FCP_WAIT. -/
def exchanging : State := after (given connected [0xA0000004, 0x01FF1900])

/-- A FAULTED block with the stored fault (5, 6) of CX15. -/
def faulted : State := { connected with phase := .faulted, faultRegs := { code := 5, info := 6 } }

/-! ## One step of each command (vectors of 95_test_vectors.md) -/

/-- CX1. -/
theorem test_connect : (after (given { State.reset with
      infoAnswers := [.ok { cardIndex := 0, generation := 5, localNode := 0, rootNode := 1 }] } [0])).resOut
    = [[0x00000010, 0, 5, 0, 1, 0]] := by decide

/-- CX4. -/
theorem test_connect_no_device : (after (given { State.reset with params := unopened } [0])).resOut
    = [[0x20000000, 1]] := by decide

/-- PH1: no enable, one packet as given. -/
theorem test_sendPhy : (after (given connected [0x10000000, 0x02000000, 0xFDFFFFFF, 0, 0])).subOut
    = [.phy 0x02000000 0xFDFFFFFF 5] := by decide

/-- PH1's end. -/
theorem test_sendPhy_sent : (after (seeing (after (given connected [0x10000000, 0x02000000, 0xFDFFFFFF, 0, 0]))
    (sentEvent 0 0x39))).resOut = [[0x01000008, 0x00000100, 0, 0x39]] := by decide

/-- PH2: enable, then the packet with its complement. -/
theorem test_sendPhySym : pinging.subOut = [.enablePhyRx, .phy 0x01000000 0xFEFFFFFF 5] := by decide

/-- PH2's last event. -/
theorem test_sendPhySym_response : (after (seeing (after (seeing pinging (sentEvent 0 120)))
    (phyEvent 0x817F84E4))).resOut = [[0x0200000C, 0x00000101, 0x817F84E4, 0x78, 0x817F84E4]] := by decide

/-- AS1's submission. -/
theorem test_asyncRead : reading.subOut = [.async 0x4 0xFFFFF0000400 4 [] 5 false] := by decide

/-- AS1's result. -/
theorem test_asyncRead_response : (after (seeing reading (responseEvent 0 [0x04, 0x04, 0xA0, 0x5B]))).resOut
    = [[0x03000004, 1, 0x0404A05B]] := by decide

/-- AS16: unaligned, so the block tcode. -/
theorem test_asyncWrite : (after (given connected [0x40000004, 0, 0x00001003, 0xDEADBEEF])).subOut
    = [.async 0x1 0x1003 4 [0xDE, 0xAD, 0xBE, 0xEF] 5 false] := by decide

/-- AS19's result. -/
theorem test_asyncWrite_address_error : (after (seeing (after (given connected
    [0x40000008, 0x0000FFFF, 0xFFFFFFFC, 0x01020304, 0x05060708])) (responseEvent 7 []))).resOut
    = [[0x14070000, 1]] := by decide

/-- LK15. -/
theorem test_asyncLockMaskSwap : (after (given connected [0x51000404, 0, 0x3000, 0x0000FFFF, 0x00001234])).subOut
    = [.async 0x11 0x3000 8 [0, 0, 0xFF, 0xFF, 0, 0, 0x12, 0x34] 5 false] := by decide

/-- LK16. -/
theorem test_asyncLockCompareSwap : (after (given connected [0x52000404, 0, 0x3000, 1, 2])).subOut
    = [.async 0x12 0x3000 8 [0, 0, 0, 1, 0, 0, 0, 2] 5 false] := by decide

/-- LK14. -/
theorem test_asyncLockFetchAdd : (after (given connected [0x53000400, 0, 0x2000, 1])).subOut
    = [.async 0x13 0x2000 4 [0, 0, 0, 1] 5 false] := by decide

/-- LK20. -/
theorem test_asyncLockLittleAdd : (after (given connected [0x54000400, 0, 0x3000, 0x02000000])).subOut
    = [.async 0x14 0x3000 4 [2, 0, 0, 0] 5 false] := by decide

/-- LK17. -/
theorem test_asyncLockBoundedAdd : (after (given connected [0x55000404, 0, 0x3000, 0xA, 1])).subOut
    = [.async 0x15 0x3000 8 [0, 0, 0, 10, 0, 0, 0, 1] 5 false] := by decide

/-- LK18. -/
theorem test_asyncLockWrapAdd : (after (given connected [0x56000404, 0, 0x3000, 0xA, 0])).subOut
    = [.async 0x16 0x3000 8 [0, 0, 0, 10, 0, 0, 0, 0] 5 false] := by decide

/-- LK13. -/
theorem test_encodeLockMaskSwap : (after (given State.reset [0x61000808, 0x0000FFFF, 0, 0xFFFFFFFF, 0x1234])).resOut
    = [[0x06000010, 0, 0x0000FFFF, 0, 0xFFFFFFFF, 0x00001234]] := by decide

/-- LK1, S7. -/
theorem test_encodeLockCompareSwap : (after (given State.reset [0x62000404, 1, 2])).resOut
    = [[0x06000008, 0, 1, 2]] := by decide

/-- LK8. -/
theorem test_encodeLockCompareSwap_mismatch : (after (given State.reset [0x62000408, 1, 0, 2])).resOut
    = [[0x66000000, 3]] := by decide

/-- LK3. -/
theorem test_encodeLockFetchAdd : (after (given State.reset [0x63000400, 1])).resOut = [[0x06000004, 0, 1]] := by decide

/-- LK2, S8. -/
theorem test_encodeLockFetchAdd_arity : (after (given State.reset [0x63000404, 1, 2])).resOut
    = [[0x66000000, 1]] := by decide

/-- LK5. -/
theorem test_encodeLockLittleAdd : (after (given State.reset [0x64000400, 0x02000000])).resOut
    = [[0x06000004, 0, 0x02000000]] := by decide

/-- R320, R322 by hand. -/
theorem test_encodeLockBoundedAdd : (after (given State.reset [0x65000404, 0xA, 1])).resOut
    = [[0x06000008, 0, 0xA, 1]] := by decide

/-- R320, R322 by hand. -/
theorem test_encodeLockWrapAdd : (after (given State.reset [0x66000404, 0xA, 0])).resOut
    = [[0x06000008, 0, 0xA, 0]] := by decide

/-- SI2. -/
theorem test_decodeSelfId : (after (given State.reset [0x70000003, 0x827F88FB, 0x8281394D, 0x82927100])).resOut
    = [[0x07000008, 3, 0x027F8802, 0xF9394E71]] := by decide

/-- SI4: a clear `m` bit ends the chain. -/
theorem test_decodeSelfId_short : (after (given State.reset [0x70000003, 0x827F88FA, 0x8281394D, 0x82927100])).resOut
    = [[0x07000008, 1, 0x027F8802, 0xF8000000]] := by decide

/-- SI15. -/
theorem test_encodeSelfId : (after (given State.reset [0x80000003, 0x3F7FCF02, 0xFFFFFFFF])).resOut
    = [[0x0800000C, 0, 0xBF7FCFFF, 0xBF83FFFD, 0xBF93FF00]] := by decide

/-- SI11. -/
theorem test_encodeSelfId_uncarried : (after (given State.reset [0x80000001, 0x027F8802, 0xF9394E71])).resOut
    = [[0x78000000, 2]] := by decide

/-- SC1's submissions. -/
theorem test_scanPhyRegs : scanning.subOut = [.enablePhyRx, .phy 0x01148200 0xFEEB7DFF 5,
    .phy 0x01148300 0xFEEB7CFF 5, .phy 0x01148400 0xFEEB7BFF 5, .phy 0x01148500 0xFEEB7AFF 5,
    .phy 0x01148600 0xFEEB79FF 5, .phy 0x01148700 0xFEEB78FF 5] := by decide

/-- S11: five replies, then TIMEOUT. -/
theorem test_scanPhyRegs_timeout : (after { scanning with evtIn := [.timeout], scan := { scanning.scan with
      rxMask := 0xDC, regs := { r2 := 0x00, r3 := 0x10, r4 := 0xDC, r5 := 0x77, r6 := 0x34, r7 := 0x56 } } }).resOut
    = [[0x39000006, 0xDC, 0x0010DC00, 0x34560000]] := by decide

/-- FC1's submissions. -/
theorem test_sendFcp : exchanging.subOut = [.allocate 0xFFFFF0000D00 0x200,
    .async 0x0 0xFFFFF0000B00 4 [0x01, 0xFF, 0x19, 0x00] 5 false] := by decide

/-- FC1's last event: the reply is answered COMPLETE and returned. -/
theorem test_sendFcp_reply : (after (seeing { exchanging with flags := { exchanging.flags with fcpAckDone := true } }
      (requestEvent 7 0xFFFFF0000D00 [0x09, 0xFF, 0x19, 0x00]))).resOut
    = [[0x0A000004, 3, 0x09FF1900]] := by decide

/-- CX5. -/
theorem test_busResetReqLong : (after (given connected [0xB0000000])).subOut = [.busReset 0] ∧
    (after (given connected [0xB0000000])).resOut = [[0x0B000000, 0]] := by decide

/-- CX6. -/
theorem test_busResetReqShort : (after (given connected [0xB1000000])).subOut = [.busReset 1] ∧
    (after (given connected [0xB1000000])).resOut = [[0x0B000000, 0]] := by decide

/-- CX11. -/
theorem test_illegalC : (after (given connected [0xC0000000])).resOut = [[0x7C000000, 1]] := by decide

theorem test_illegalD : (after (given connected [0xD0000000])).resOut = [[0x7D000000, 1]] := by decide

theorem test_illegalE : (after (given connected [0xE0000000])).resOut = [[0x7E000000, 1]] := by decide

/-- CX12. -/
theorem test_illegalF : (after (given connected [0xF1234567])).resOut = [[0x7F000000, 1]] := by decide

/-- CX15: the stored fault, three words consumed. -/
theorem test_faulted : (after (given faulted readRecord)).resOut = [[0x53000000, 6]] ∧
    (after (given faulted readRecord)).cmdIn = [] := by decide

/-- LK24: the connection guard comes before BAD_LOCK_OP. CX7: a bad reset kind. -/
theorem test_rejects : (after (given State.reset [0x50000404, 0, 0, 1, 2])).resOut = [[0x75000000, 3]] ∧
    (after (given connected [0xB2000000])).resOut = [[0x7B000000, 7]] := by decide

/-- EV2: a short BUS_RESET record updates nothing. -/
theorem test_short_typed_record : (after (seeing { reading with params := longReset }
      busResetEvent)).resOut = [[0x43000000, 2]] ∧
    (after (seeing { reading with params := longReset } busResetEvent)).ctx.gen
      = 5 := by decide

/-- The responder vectors LK14 (FetchAdd wraps), LK18 (WrapAdd at its bound), LK20 (LittleAdd). -/
theorem test_responder : lockResult .fetchAdd [0xFF, 0xFF, 0xFF, 0xFF] [0, 0, 0, 1] [] = [0, 0, 0, 0] ∧
    lockResult .wrapAdd [0, 0, 0, 10] [0, 0, 0, 10] [0, 0, 0, 0] = [0, 0, 0, 0] ∧
    lockResult .littleAdd [1, 0, 0, 0] [2, 0, 0, 0] [] = [3, 0, 0, 0] ∧
    lockResult .maskSwap [0xAB, 0xCD, 0xEF, 0x01] [0, 0, 0xFF, 0xFF] [0, 0, 0x12, 0x34]
      = [0xAB, 0xCD, 0x12, 0x34] := by decide

/-! ## Witnesses: each obligation's hypotheses hold together somewhere, clause by clause -/

/-- A kernel that refuses the next submission. -/
def refusing : State := { connected with submitAnswers := [.rejected] }

/-- A kernel that accepts one submission and refuses the next. -/
def refusingSecond : State := { connected with submitAnswers := [.ok 0, .rejected] }

theorem witness_DecodeInvertsEncode :
    (Instr.asyncWrite 0xFFFFFFFFFFFF (List.replicate 65535 0xFF)).wellFormed = true ∧
    (Instr.asyncLockMaskSwap 0 (List.replicate 255 0) []).wellFormed = true ∧
    (Instr.decodeSelfId 3 [1, 2, 3]).wellFormed = true ∧ (Instr.decodeSelfId 0xFFFF []).wellFormed = true := by
  simp only [Instr.wellFormed, payloadFits, operandsFit, List.length_replicate]; decide

theorem witness_EncodeInvertsDecode :
    decode (readRecord ++ [7]) = some (.instr (.asyncRead 0xFFFFF0000400 4), [7]) ∧
    noPayload (.asyncRead 0xFFFFF0000400 4) = true := by decide

theorem witness_DecodedInstrIsWellFormed :
    decode [0x70000003, 1, 2, 3] = some (.instr (.decodeSelfId 3 [1, 2, 3]), []) := by decide

theorem witness_RecordFramingNeverLost :
    (given connected (readRecord ++ [9])).phase = .idle ∧ (given faulted (readRecord ++ [9])).phase = .faulted ∧
    readRecord ++ [9] = 0x30000004 :: ([0x0000FFFF, 0xF0000400] ++ [9]) ∧
    [0x0000FFFF, 0xF0000400].length = operandCount 0x30000004 ∧
    ([] : List Word).length = operandCount 0xCFFFFFFF ∧ ([] : List Word).length = operandCount 0x70000004 := by decide

theorem witness_ReservedBitsRefused_header :
    (given connected [0x00010000]).phase = .idle ∧ ([] : List Word).length = operandCount 0x00010000 ∧
    (field 0x00010000 28 4).toNat < 0xC ∧ field 0x00010000 16 8 ≠ 0 ∧
    ([] : List Word).length = operandCount 0x01000000 ∧ field 0x01000000 24 4 ≠ 0 ∧ field 0x01000000 28 4 ≠ 0xB ∧
    ([] : List Word).length = operandCount 0xB1000001 ∧ (field 0xB1000001 28 4).toNat < 0xC ∧
    field 0xB1000001 0 16 ≠ 0 ∧ field 0xB1000001 28 4 = 0xB := by decide

theorem witness_ReservedBitsRefused_operands :
    (given connected [0x90000040]).phase = .idle ∧ ([] : List Word).length = operandCount 0x90000040 ∧
    field 0x90000040 28 4 = 0x9 ∧ field 0x90000040 6 10 ≠ 0 ∧
    (given connected [0x30000004, 0x00010000, 0]).cmdIn = 0x30000004 :: ([0x00010000, 0] ++ []) ∧
    [0x00010000, 0].length = operandCount 0x30000004 ∧ field 0x30000004 28 4 = 0x3 ∧
    field (([0x00010000, 0] : List Word).headD 0) 16 16 ≠ 0 := by decide

theorem witness_StepRunsDecodedInstruction_records :
    (given connected readRecord).phase = .idle ∧ (given faulted readRecord).phase = .faulted ∧
    decode (given connected readRecord).cmdIn = some (.instr (.asyncRead 0xFFFFF0000400 4), []) ∧
    decode (given connected [0xB2000000]).cmdIn = some (.reject .badResetKind, []) ∧
    decode connected.cmdIn = none := by decide

theorem witness_StepRunsDecodedInstruction_polls :
    pinging.phase = .phyWait ∧ reading.phase = .asyncWait ∧ exchanging.phase = .fcpWait ∧
    scanning.phase = .scanWait := by decide

theorem witness_StepStopsOnlyInReservedPhases :
    { State.reset with phase := .reserved5 }.phase = .reserved5 ∧
    { State.reset with phase := .reserved6 }.phase = .reserved6 ∧
    faulted.phase ≠ .reserved5 ∧ faulted.phase ≠ .reserved6 := by decide

theorem witness_OneInputPerStep_poll :
    step (seeing reading busResetEvent) = .next (after (seeing reading busResetEvent)) ∧
    (seeing reading busResetEvent).phase.waiting = true := ⟨rfl, rfl⟩

/-- A CONNECT record changes GEN from 0 to 5 in IDLE. -/
theorem witness_OneInputPerStep_connect :
    (given { State.reset with infoAnswers := [.ok { cardIndex := 0, generation := 5, localNode := 0, rootNode := 1 }] }
      [0]).phase = .idle ∧
    (after (given { State.reset with
      infoAnswers := [.ok { cardIndex := 0, generation := 5, localNode := 0, rootNode := 1 }] } [0])).ctx.gen
      ≠ State.reset.ctx.gen := by decide

theorem witness_ResultRecordLayout :
    ([] : List Byte).length < 2 ^ 16 ∧ (List.replicate 65535 (0xFF : Byte)).length < 2 ^ 16 := by
  simp only [List.length_replicate]; decide

theorem witness_FaultedAnswersStoredFault :
    (given faulted (readRecord ++ [0])).phase = .faulted ∧
    (given faulted (readRecord ++ [0])).cmdIn = 0x30000004 :: ([0x0000FFFF, 0xF0000400] ++ [0]) ∧
    [0x0000FFFF, 0xF0000400].length = operandCount 0x30000004 := by decide

theorem witness_FaultedIsSticky :
    (given faulted [0, 0xC0000000]).phase = .faulted ∧
    Host.Core.run Sys2Proof.core 2 (given faulted [0, 0xC0000000])
      = .next (after (after (given faulted [0, 0xC0000000]))) := ⟨rfl, rfl⟩

theorem witness_ValidationBeforeSend_argument :
    connected.phase = .idle ∧
    runRecord (.instr (.illegalC 0)) connected = .next (after (given connected [0xC0000000])) ∧
    (after (given connected [0xC0000000])).resOut = connected.resOut ++ [[0x7C000000, 1]] ∧
    resultStatus [0x7C000000, 1] = 7 := ⟨rfl, rfl, rfl, rfl⟩

theorem witness_ValidationBeforeSend_width :
    runRecord (.instr (.encodeLockFetchAdd [0, 1] [])) connected = .next (after (given connected [0x63000200, 0x00010000])) ∧
    (after (given connected [0x63000200, 0x00010000])).resOut = connected.resOut ++ [[0x66000000, 2]] ∧
    resultStatus [0x66000000, 2] = 6 := ⟨rfl, rfl, rfl⟩

theorem witness_ValidationBeforeSend_poll :
    reading.phase.waiting = true ∧ step (polling reading .timeout) = .next (after (polling reading .timeout)) ∧
    (after (polling reading .timeout)).resOut = reading.resOut ++ [[0x33000000, 2]] := ⟨rfl, rfl, rfl⟩

theorem witness_OneResultPerCommand :
    step connected = .next connected ∧ connected.phase.waiting = false ∧
    step (given connected readRecord) = .next (after (given connected readRecord)) ∧
    step (polling reading .timeout) = .next (after (polling reading .timeout)) ∧ reading.phase.waiting = true :=
  ⟨rfl, rfl, rfl, rfl, rfl⟩

theorem witness_RefusedSubmissionIsFatal_command :
    answerTo (given refusing readRecord) 0 = .rejected ∧
    step (given refusing readRecord) = .next (after (given refusing readRecord)) ∧
    (given refusing readRecord).subOut.length + 0 < (after (given refusing readRecord)).subOut.length :=
  ⟨rfl, rfl, by decide⟩

theorem witness_RefusedSubmissionIsFatal_retry :
    answerTo (seeing { reading with submitAnswers := [.rejected] } (responseEvent 0x13 [])) 0 = .rejected ∧
    reading.subOut.length + 0
      < (after (seeing { reading with submitAnswers := [.rejected] } (responseEvent 0x13 []))).subOut.length := by
  decide

/-- SEND_FCP's write is refused after its ALLOCATE was accepted. -/
theorem witness_RefusedSubmissionIsFatal_second :
    answerTo (given refusingSecond [0xA0000004, 0x01FF1900]) 1 = .rejected ∧
    step (given refusingSecond [0xA0000004, 0x01FF1900])
      = .next (after (given refusingSecond [0xA0000004, 0x01FF1900])) ∧
    refusingSecond.subOut.length + 1 < (after (given refusingSecond [0xA0000004, 0x01FF1900])).subOut.length :=
  ⟨rfl, rfl, by decide⟩

/-- SC12: the third PHY submission of a scan is refused, after the enable and two packets. -/
def refusingThirdPacket : State :=
  given { connected with submitAnswers := [.ok 0, .ok 0, .ok 0, .rejected] } [0x90000001]

theorem witness_RefusedSubmissionIsFatal_scan :
    answerTo refusingThirdPacket 3 = .rejected ∧ step refusingThirdPacket = .next (after refusingThirdPacket) ∧
    refusingThirdPacket.subOut.length + 3 < (after refusingThirdPacket).subOut.length :=
  ⟨rfl, rfl, by decide⟩

/-- SC12's result. -/
theorem test_scan_refused : (after refusingThirdPacket).resOut = [[0x29000000, 3]] ∧
    (after refusingThirdPacket).phase = .faulted ∧ (after refusingThirdPacket).subOut.length = 4 := by decide

theorem witness_ConnectionGuard :
    guarded (.busResetReqShort) = true ∧ guarded (.asyncLockWrapAdd 0 [] []) = true ∧
    guarded (.sendPhy 0 0 0 0) = true ∧ State.reset.phase ≠ .faulted ∧ State.reset.ctx.genValid = false := by decide

theorem witness_ConnectionGuard_encoders :
    pureEncoder (.decodeSelfId 1 [0]) = true ∧
    exec (.decodeSelfId 1 [0]) connected = .next (after (given connected [0x70000001, 0])) := ⟨rfl, rfl⟩

/-- LK10, LK11: lock kinds 0, 7 and 15, with the guard open and closed. -/
theorem witness_BadKindsAndLengthsRefused_locks :
    (given connected [0x60000404, 1, 2]).phase = .idle ∧ ([1, 2] : List Word).length = operandCount 0x60000404 ∧
    field 0x60000404 16 8 = 0 ∧ field 0x60000404 28 4 = 0x6 ∧ field 0x60000404 24 4 = 0 ∧
    field 0x67000404 28 4 = 0x6 ∧ 7 ≤ (field 0x67000404 24 4).toNat ∧ 7 ≤ (field 0x6F000404 24 4).toNat ∧
    field 0x57000404 28 4 = 0x5 ∧ 7 ≤ (field 0x57000404 24 4).toNat ∧
    ([0, 0, 1, 2] : List Word).length = operandCount 0x57000404 ∧
    field (([0, 0, 1, 2] : List Word).headD 0) 16 16 = 0 ∧ State.reset.ctx.genValid = false := by decide

/-- CX7: reset kinds 2 and 15. -/
theorem witness_BadKindsAndLengthsRefused_resets :
    ([] : List Word).length = operandCount 0xB2000000 ∧ field 0xB2000000 16 8 = 0 ∧ field 0xB2000000 28 4 = 0xB ∧
    2 ≤ (field 0xB2000000 24 4).toNat ∧ field 0xB2000000 0 16 = 0 ∧ field 0xBF000000 28 4 = 0xB ∧
    2 ≤ (field 0xBF000000 24 4).toNat ∧ connected.ctx.genValid = true := by decide

theorem witness_BadKindsAndLengthsRefused :
    connected.phase ≠ .faulted ∧ connected.ctx.genValid = true ∧
    connected.params.maxPayload.toNat < (513 : BitVec 16).toNat ∧
    connected.params.maxPayload.toNat < (List.replicate 513 (0 : Byte)).length := by
  simp only [List.length_replicate]; decide

theorem witness_ConnectReadsContext :
    connected.phase ≠ .faulted ∧ connected.params.deviceHandle = some 0 ∧
    infoAnswer { connected with infoAnswers := [.ok { cardIndex := 2, generation := 9, localNode := 3, rootNode := 3 }] }
      = .ok { cardIndex := 2, generation := 9, localNode := 3, rootNode := 3 } := by decide

theorem witness_ConnectInfoFailure :
    State.reset.phase ≠ .faulted ∧ infoAnswer { State.reset with infoAnswers := [.rejected] } = .rejected ∧
    State.reset.params.deviceHandle = some 0 ∧ { State.reset with params := unopened }.params.deviceHandle = none := by
  decide

theorem witness_BusResetRequestSubmits :
    connected.phase ≠ .faulted ∧ connected.ctx.genValid = true ∧ submitAnswer connected = .ok 0 ∧
    refusing.phase ≠ .faulted ∧ refusing.ctx.genValid = true ∧ submitAnswer refusing = .rejected := by decide

theorem witness_IllegalOpcodesFault :
    (given connected [0xC0000000]).phase = .idle ∧ (given connected [0xC0000000]).cmdIn = 0xC0000000 :: [] ∧
    0xC ≤ (field 0xC0000000 28 4).toNat ∧ 0xC ≤ (field 0xFFFFFFFF 28 4).toNat := by decide

theorem witness_SendPhyStarts :
    connected.phase ≠ .faulted ∧ connected.ctx.genValid = true ∧ submitAnswer connected = .ok 0 ∧
    (0xFF000000 : Word) ≠ 0 ∧ connected.ctx.phyRxEn = false ∧
    submitAnswer (connected.putSub .enablePhyRx) = .ok 0 := by decide

theorem witness_SendPhyStarts_armed :
    { pinging with phase := .idle }.phase ≠ .faulted ∧ pinging.ctx.genValid = true ∧ pinging.ctx.phyRxEn = true ∧
    submitAnswer pinging = .ok 0 := by decide

theorem witness_SendPhyRefusedKeepsEffects :
    refusing.phase ≠ .faulted ∧ refusing.ctx.genValid = true ∧ refusing.ctx.phyRxEn = false ∧
    submitAnswer refusing = .rejected ∧ refusingSecond.phase ≠ .faulted ∧ refusingSecond.ctx.genValid = true ∧
    refusingSecond.ctx.phyRxEn = false ∧ submitAnswer refusingSecond = .ok 0 ∧
    submitAnswer (refusingSecond.putSub .enablePhyRx) = .rejected := by decide

theorem witness_PhySentEvent :
    pinging.phase = .phyWait ∧
    nextEvent (seeing pinging (sentEvent 0 120)) = .event (.sent 0 120) (polled pinging) ∧
    nextEvent (seeing pinging (sentEvent 0x10 0)) = .event (.sent 0x10 0) (polled pinging) := by decide

/-- PH6: a word of another PHY. -/
theorem witness_PhyNonMatchingDiscarded :
    nextEvent (seeing pinging (phyEvent 0x02000000)) = .event (.phyReceived 0x02000000) (polled pinging) ∧
    pinging.phase = .phyWait ∧ pinging.flags.awaitSent = true ∧
    0x02000000 &&& pinging.pending.mask ≠ pinging.pending.bits := by decide

theorem witness_PhyNonMatchingDiscarded_not_awaited :
    (after (given connected [0x10000000, 1, 2, 0, 0])).phase = .phyWait ∧
    (after (given connected [0x10000000, 1, 2, 0, 0])).flags.awaitSent = true ∧
    (after (given connected [0x10000000, 1, 2, 0, 0])).flags.awaitResp = false := by decide

theorem witness_PhySelfIdAccumulates :
    nextEvent (seeing pinging (phyEvent 0x817F84E5)) = .event (.phyReceived 0x817F84E5) (polled pinging) ∧
    pinging.flags.awaitResp = true ∧ 0x817F84E5 &&& pinging.pending.mask = pinging.pending.bits ∧
    field 0x817F84E5 30 2 = 0b10 ∧ pinging.chain.len ≠ 3 := by decide

/-- The third word of a chain. -/
theorem witness_PhySelfIdAccumulates_third :
    nextEvent (seeing { pinging with chain := { pinging.chain with len := 2 } } (phyEvent 0x81900001))
      = .event (.phyReceived 0x81900001) (polled { pinging with chain := { pinging.chain with len := 2 } }) ∧
    0x81900001 &&& pinging.pending.mask = pinging.pending.bits ∧ (2 : BitVec 2) ≠ 3 := by decide

/-- PH7's last word. -/
theorem witness_PhyFinalResponse :
    nextEvent (seeing (after (given connected [0x20000000, 0x01000000, 0xFF000000, 0x01000000])) (phyEvent 0x01000000))
      = .event (.phyReceived 0x01000000)
        (polled (after (given connected [0x20000000, 0x01000000, 0xFF000000, 0x01000000]))) ∧
    (after (given connected [0x20000000, 0x01000000, 0xFF000000, 0x01000000])).phase = .phyWait ∧
    (after (given connected [0x20000000, 0x01000000, 0xFF000000, 0x01000000])).flags.awaitResp = true ∧
    (0x01000000 : Word) &&& 0xFF000000 = 0x01000000 ∧ field 0x01000000 30 2 ≠ 0b10 := by decide

/-- A record one byte short of the common minimum; one long enough for it but not for its type. -/
theorem witness_PollChecksInOrder_short :
    ({ type := 8, len := 11 } : EventRecord).len < reading.params.minEventLen ∧
    longReset.minEventLen ≤ ({ type := 0, len := 15 } : EventRecord).len ∧
    ¬ validRecord longReset { type := 0, len := 15 } := by
  unfold validRecord; decide

/-- Records just long enough, of each type. -/
theorem witness_PollChecksInOrder_valid :
    validRecord longReset { type := 0, len := 16 } ∧ validRecord reading.params (responseEvent 0 [1]) ∧
    (responseEvent 0 [1]).payload.length < 2 ^ 16 ∧ validRecord reading.params (requestEvent 0 0 []) := by
  unfold validRecord; decide

theorem witness_PollChecksInOrder_valid_rest :
    validRecord reading.params (sentEvent 0 0) ∧ validRecord reading.params (phyEvent 0) ∧
    validRecord reading.params unknownEvent := by
  unfold validRecord; decide

theorem witness_PollChecksInOrder_answers :
    (polling reading .timeout).evtIn = .timeout :: [] ∧ pollAnswer (polling reading .timeout) = .timeout ∧
    pollAnswer (polling reading .readFailed) = .readFailed ∧
    pollAnswer (seeing reading shortEvent) = .event shortEvent := by decide

/-- EV4's failed read, a short read, EV2's record too short for its type. -/
theorem witness_ShortReadIsFatal :
    exchanging.phase.waiting = true ∧ pollAnswer (polling exchanging .readFailed) = .readFailed ∧
    pollAnswer (seeing exchanging shortEvent) = .event shortEvent ∧
    shortEvent.len < exchanging.params.minEventLen ∧
    pollAnswer (seeing { reading with params := longReset } busResetEvent) = .event busResetEvent ∧
    longReset.minEventLen ≤ busResetEvent.len ∧ ¬ validRecord longReset busResetEvent := by
  unfold validRecord; decide

/-- EV4. -/
theorem test_read_failed : (after (polling exchanging .readFailed)).resOut = [[0x2A000000, 5]] ∧
    (after (polling exchanging .readFailed)).phase = .faulted := by decide

theorem witness_BusResetUpdatesGeneration :
    (seeing reading busResetEvent).phase.waiting = true ∧ (seeing scanning busResetEvent).phase.waiting = true ∧
    pollAnswer (seeing reading busResetEvent) = .event busResetEvent ∧
    validRecord reading.params busResetEvent ∧ busResetEvent.type = 0x00 := by
  unfold validRecord; decide

theorem witness_BusResetFatalOutsideAsync :
    nextEvent (seeing pinging busResetEvent)
      = .event (.busReset 6 1 0) (onBusReset (.busReset 6 1 0) (polled pinging)) ∧
    nextEvent (seeing reading busResetEvent)
      = .event (.busReset 6 1 0) (onBusReset (.busReset 6 1 0) (polled reading)) ∧
    pinging.phase = .phyWait ∧ reading.phase = .asyncWait := by decide

theorem witness_TimeoutEndsCommand :
    nextEvent (polling pinging .timeout) = .timeout (polled pinging) ∧
    nextEvent (polling reading .timeout) = .timeout (polled reading) ∧
    nextEvent (polling exchanging .timeout) = .timeout (polled exchanging) ∧
    nextEvent (polling scanning .timeout) = .timeout (polled scanning) := by decide

theorem witness_UnrelatedEventsDiscarded_waits :
    stillAwaiting pinging ∧ stillAwaiting reading ∧ stillAwaiting exchanging ∧ stillAwaiting scanning := by
  unfold stillAwaiting; decide

/-- Two unknown events. -/
theorem witness_UnrelatedEventsDiscarded_run :
    { pinging with evtIn := [.event unknownEvent, .event unknownEvent, .timeout] }.evtIn
      = (List.replicate 2 unknownEvent).map PollAnswer.event ++ [.timeout] ∧
    (List.replicate 2 unknownEvent).length = 2 ∧ validRecord pinging.params unknownEvent ∧
    unknownType unknownEvent.type := by
  unfold validRecord unknownType; decide

theorem witness_UnrelatedEventsDiscarded :
    nextEvent (seeing pinging (responseEvent 0 []))
      = .event (.asyncResponse 0 0 [] 0) (polled pinging) ∧ pinging.flags.awaitSent = true ∧
    nextEvent (seeing reading (sentEvent 0 1)) = .event (.sent 0 1) (polled reading) ∧
    nextEvent (seeing exchanging unknownEvent) = .event .other (polled exchanging) ∧
    ¬ (exchanging.flags.fcpAckDone = true ∧ exchanging.flags.fcpReqDone = true) ∧
    nextEvent (seeing scanning (sentEvent 0 1)) = .event (.sent 0 1) (polled scanning) ∧
    scanning.scan.rxMask ≠ 0xFC := by decide

theorem witness_AsyncReadSubmits :
    connected.phase ≠ .faulted ∧ connected.ctx.genValid = true ∧
    (512 : BitVec 16).toNat ≤ connected.params.maxPayload.toNat ∧ submitAnswer connected = .ok 0 := by decide

theorem witness_AsyncWriteSubmits :
    connected.phase ≠ .faulted ∧ connected.ctx.genValid = true ∧
    (List.replicate 512 (1 : Byte)).length ≤ connected.params.maxPayload.toNat ∧
    Memory.wf connected.req.payload = true ∧ submitAnswer connected = .ok 0 := by
  simp only [List.length_replicate]; decide

theorem witness_PayloadStoreFrame :
    Memory.wf [] = true ∧ Memory.wf [(0, 1), (3, 0xFF)] = true := by decide

theorem witness_AsyncTerminalResponse :
    reading.phase = .asyncWait ∧
    nextEvent (seeing reading (responseEvent 0 [1, 2])) = .event (.asyncResponse 0 2 [1, 2] 0) (polled reading) ∧
    nextEvent (seeing reading (responseEvent 0x1F [])) = .event (.asyncResponse 0x1F 0 [] 0) (polled reading) ∧
    (0 : BitVec 5) ≠ 0x13 ∧ (0x1F : BitVec 5) ≠ 0x13 ∧ Memory.wf reading.resp.data = true := by decide

/-- AS6 and AS5: with a bound of 0 the first GENERATION response ends the command, with 1 it is retried; no bound. -/
theorem witness_AsyncGenerationRetry :
    nextEvent (seeing reading (responseEvent 0x13 [])) = .event (.asyncResponse 0x13 0 [] 0) (polled reading) ∧
    reading.phase = .asyncWait ∧ reading.params.maxGenRetries = none ∧ submitAnswer reading = .ok 0 ∧
    submitAnswer { reading with submitAnswers := [.rejected] } = .rejected ∧
    reading.req.submits.toNat ≤ 1 ∧ 0 < reading.req.submits.toNat ∧ Memory.wf reading.resp.data = true := by decide

/-- AS1's request with at most one resubmission: after its first submission (SUBMITS = 1) a GENERATION response is retried,
after the second (SUBMITS = 2) it ends the command. -/
def boundedRetry (submits : Word) : State :=
  seeing { reading with params := { reading.params with maxGenRetries := some 1 },
                        req := { reading.req with submits := submits } } (responseEvent 0x13 [])

theorem witness_AsyncGenerationRetry_bound :
    (boundedRetry 1).phase = .asyncWait ∧
    nextEvent (boundedRetry 1) = .event (.asyncResponse 0x13 0 [] 0) (polled (boundedRetry 1)) ∧
    (boundedRetry 1).params.maxGenRetries = some 1 ∧ (boundedRetry 1).req.submits.toNat ≤ 1 ∧
    nextEvent (boundedRetry 2) = .event (.asyncResponse 0x13 0 [] 0) (polled (boundedRetry 2)) ∧
    (boundedRetry 2).params.maxGenRetries = some 1 ∧ 1 < (boundedRetry 2).req.submits.toNat ∧
    Memory.wf (boundedRetry 2).resp.data = true := by decide

/-- The two sides of the bound (R283, R290): a resubmission, then RemoteError(GENERATION). -/
theorem test_generation_bound : (after (boundedRetry 1)).phase = .asyncWait ∧
    (after (boundedRetry 1)).req.submits = 2 ∧ (after (boundedRetry 2)).resOut = [[0x13130000, 2]] := by decide

/-- S5: two GENERATION responses, then COMPLETE. -/
theorem witness_GenerationRetryRun :
    reading.phase = .asyncWait ∧ reading.params.maxGenRetries = none ∧ Memory.wf reading.resp.data = true ∧
    (List.replicate 2 (responseEvent 0x13 [])).length = 2 ∧
    validRecord reading.params (responseEvent 0x13 []) ∧ (responseEvent 0x13 []).type = 0x01 ∧
    (responseEvent 0x13 []).rcode = 0x13 ∧ validRecord reading.params (responseEvent 0 [4, 4, 0xA0, 0x5B]) ∧
    (responseEvent 0 [4, 4, 0xA0, 0x5B]).payload.length < 2 ^ 16 ∧
    reading.submitAnswers = [0, 0].map SubmitAnswer.ok ++ List.replicate 6 (.ok 0) := by
  unfold validRecord; decide

theorem witness_EncodeLockSerialises :
    State.reset.phase ≠ .faulted ∧ ([0, 0, 0, 1] : List Byte).length = 4 ∧
    (List.replicate 8 (0 : Byte)).length = 8 ∧ ([] : List Byte).length = 0 ∧
    LockKind.fetchAdd ≠ LockKind.wrapAdd := by decide

theorem witness_AsyncLockSubmits :
    connected.phase ≠ .faulted ∧ connected.ctx.genValid = true ∧ ([0, 0, 0, 1] : List Byte).length = 4 ∧
    ([0, 0, 0, 2] : List Byte).length = ([0, 0, 0, 1] : List Byte).length ∧
    Memory.wf connected.req.payload = true ∧ submitAnswer connected = .ok 0 := by decide

/-- A missing operand; a width of 2 or 3; widths 4 and 8. -/
theorem witness_LockOperandFaults :
    connected.phase ≠ .faulted ∧ connected.ctx.genValid = true ∧ ([] : List Byte).length = 0 ∧
    ([1] : List Byte).length ≠ 0 ∧ (([0, 1, 2] : List Byte).length ≠ 4 ∧ ([0, 1, 2] : List Byte).length ≠ 8) ∧
    ([0, 0, 0, 1] : List Byte).length = 4 ∧ (List.replicate 8 (0 : Byte)).length ≠ 4 := by decide

theorem witness_ResponderLocks :
    Memory.wf [(0x3003, 1)] = true ∧ [0, 0, 0, 1] = readBytes [(0x3003, 1)] (0x3000 : Offset).toNat 4 ∧
    ([0, 0, 0, 2] : List Byte).length = ([0, 0, 0, 1] : List Byte).length ∧
    [0, 0, 0, 2] = readBytes (respondLock .compareSwap 0x3000 [0, 0, 0, 1] [0, 0, 0, 2] [(0x3003, 1)]).1
      (0x3000 : Offset).toNat 4 := by decide

/-- R328's and R329's examples: at the bound and below it. -/
theorem test_responder_bounds : lockResult .boundedAdd [0, 0, 0, 9] [0, 0, 0, 10] [0, 0, 0, 1] = [0, 0, 0, 10] ∧
    lockResult .boundedAdd [0, 0, 0, 10] [0, 0, 0, 10] [0, 0, 0, 1] = [0, 0, 0, 10] ∧
    lockResult .wrapAdd [0, 0, 0, 3] [0, 0, 0, 10] [0, 0, 0, 1] = [0, 0, 0, 4] := by decide

theorem witness_SendFcpStarts :
    connected.phase ≠ .faulted ∧ connected.ctx.genValid = true ∧
    (List.replicate 512 (0 : Byte)).length ≤ connected.params.maxPayload.toNat ∧
    Memory.wf connected.req.payload = true ∧ connected.ctx.fcpRangeValid = false ∧ submitAnswer connected = .ok 0 ∧
    submitAnswer (connected.putSub (.allocate connected.params.fcpRespAddr connected.params.fcpRespLen)) = .ok 0 ∧
    exchanging.ctx.fcpRangeValid = true ∧ submitAnswer exchanging = .ok 0 := by
  simp only [List.length_replicate]; decide

/-- FC1, FC4 and FC5's responses, and a second one. -/
theorem witness_FcpAck :
    exchanging.phase = .fcpWait ∧
    nextEvent (seeing exchanging (responseEvent 0 [])) = .event (.asyncResponse 0 0 [] 0) (polled exchanging) ∧
    nextEvent (seeing exchanging (responseEvent 0x13 []))
      = .event (.asyncResponse 0x13 0 [] 0) (polled exchanging) ∧
    exchanging.flags.fcpAckDone = false ∧ exchanging.flags.fcpReqDone = false ∧
    (after (seeing exchanging (responseEvent 0 []))).flags.fcpAckDone = true ∧
    (after (seeing exchanging (responseEvent 0 []))).flags.fcpReqDone = false := by decide

/-- FC7, FC8 and FC9's requests: one past the range, its last byte, a second reply; one below the range, its first byte. -/
theorem witness_FcpReply :
    nextEvent (seeing exchanging (requestEvent 4 0xFFFFF0000EFF [0x55]))
      = .event (.asyncRequest 4 0 0xFFFFF0000EFF 1 [0x55]) (polled exchanging) ∧
    exchanging.ctx.fcpRangeBase.toNat ≤ (0xFFFFF0000EFF : Offset).toNat ∧
    (0xFFFFF0000EFF : Offset).toNat < exchanging.ctx.fcpRangeBase.toNat + exchanging.ctx.fcpRangeLen.toNat ∧
    ¬ (0xFFFFF0000F00 : Offset).toNat < exchanging.ctx.fcpRangeBase.toNat + exchanging.ctx.fcpRangeLen.toNat ∧
    ¬ exchanging.ctx.fcpRangeBase.toNat ≤ (0xFFFFF0000CFF : Offset).toNat ∧
    exchanging.ctx.fcpRangeBase.toNat ≤ (0xFFFFF0000D00 : Offset).toNat ∧
    submitAnswer exchanging = .ok 0 ∧ submitAnswer { exchanging with submitAnswers := [.rejected] } = .rejected ∧
    exchanging.flags.fcpReqDone = false ∧
    (after (seeing exchanging (requestEvent 7 0xFFFFF0000D00 [9]))).flags.fcpReqDone = true := by decide

theorem witness_ScanStarts :
    connected.phase ≠ .faulted ∧ connected.ctx.genValid = true ∧ connected.ctx.phyRxEn = false ∧
    (List.replicate 7 0).length = 7 ∧ acceptsNext connected (List.replicate 7 0) [.ok 0, .ok 0] ∧
    { pinging with phase := .idle }.phase ≠ .faulted ∧ pinging.ctx.genValid = true ∧ pinging.ctx.phyRxEn = true ∧
    acceptsNext pinging (List.replicate 6 0) [.ok 0] := by
  unfold acceptsNext; decide

/-- SC1's first reply, SC3's register 1, SC4's other PHY, SC8's Sent. -/
theorem witness_ScanEvents :
    scanning.phase = .scanWait ∧
    nextEvent (seeing scanning (phyEvent 0x011C8201)) = .event (.phyReceived 0x011C8201) (polled scanning) ∧
    scanning.scan.rxMask ≠ 0xFC ∧ 0x011C8201 &&& scanning.pending.mask = scanning.pending.bits ∧
    2 ≤ (field 0x011C8201 8 3).toNat ∧ (field 0x011C81FF 8 3).toNat < 2 ∧
    0x021C8277 &&& scanning.pending.mask ≠ scanning.pending.bits ∧
    nextEvent (seeing scanning (sentEvent 0x10 0)) = .event (.sent 0x10 0) (polled scanning) := by decide

theorem witness_DecodeSelfIdResult :
    State.reset.phase ≠ .faulted ∧ 1 ≤ (1 : BitVec 16).toNat ∧ (3 : BitVec 16).toNat ≤ 3 ∧
    ([1, 2, 3] : List Word).length = (3 : BitVec 16).toNat ∧
    ¬ (1 ≤ (0 : BitVec 16).toNat ∧ (0 : BitVec 16).toNat ≤ 3) ∧
    ¬ (1 ≤ (4 : BitVec 16).toNat ∧ (4 : BitVec 16).toNat ≤ 3) := by decide

theorem witness_EncodeSelfIdResult :
    State.reset.phase ≠ .faulted ∧ ¬ (1 ≤ (4 : BitVec 16).toNat ∧ (4 : BitVec 16).toNat ≤ 3) ∧
    1 ≤ (1 : BitVec 16).toNat ∧ 0x827F8802 &&& ~~~(0x3F7FCF02 : Word) ≠ 0 ∧
    0x02000000 &&& ~~~(0xFC000000 : Word) ≠ 0 ∧ 0x3F7FCF02 &&& ~~~(0x3F7FCF02 : Word) = 0 ∧
    0xFFFFFFFF &&& ~~~(0xFFFFFFFF : Word) = 0 := by decide

theorem witness_SelfIdRoundTrip :
    State.reset.phase ≠ .faulted ∧ 1 ≤ (3 : BitVec 16).toNat ∧ (3 : BitVec 16).toNat ≤ 3 ∧
    0x027F8802 &&& ~~~(0x3F7FCF02 : Word) = 0 ∧ 0xF9394E71 &&& ~~~(0xFFFFFFFF : Word) = 0 ∧
    0xF9394C00 &&& ~~~(0xFFFFFC00 : Word) = 0 ∧ 0xE4000000 &&& ~~~(0xFC000000 : Word) = 0 := by decide

theorem witness_ResetValues : applyReset faulted = State.reset := rfl

/-- A waiting state meets the invariant and has a next state. -/
theorem witness_StepKeepsInv : State.Inv pinging ∧ step pinging = .next (after pinging) := by
  refine ⟨?_, rfl⟩
  exact {
    phaseLegal := by decide
    faultCodeLegal := by decide
    faultedFatal := by decide
    faultedGeneration := by decide
    rxMaskLegal := by decide
    chainHasRoom := by decide
    waitingConnected := by decide
    connectedOpen := by decide
    rangeLegal := by decide
    buffersCanonical := by decide
    phyWaitLegal := fun _ => { command := by decide, awaiting := by decide, rtt := by decide, armed := by decide }
    asyncWaitLegal := by decide
    fcpWaitLegal := fun h => absurd h (by decide)
    scanWaitLegal := fun h => absurd h (by decide) }

theorem witness_StickyStateAndGrowingPorts :
    step (seeing exchanging shortEvent) = .next (after (seeing exchanging shortEvent)) ∧
    exchanging.ctx.fcpRangeValid = true ∧ exchanging.ctx.genValid = true ∧
    step pinging = .next (after pinging) ∧ pinging.ctx.phyRxEn = true := ⟨rfl, rfl, rfl, rfl, rfl⟩

theorem witness_SubmissionsCarryCurrentGeneration :
    step (given connected readRecord) = .next reading ∧
    reading.subOut = connected.subOut ++ [.async 0x4 0xFFFFF0000400 4 [] 5 false] ∧
    step (given connected [0x10000000, 1, 2, 0, 0]) = .next (after (given connected [0x10000000, 1, 2, 0, 0])) ∧
    (after (given connected [0x10000000, 1, 2, 0, 0])).subOut = connected.subOut ++ [.phy 1 2 5] :=
  ⟨rfl, by decide, rfl, by decide⟩

end Sys2Proof.Tests
end

section
/-! PROOFS of the family 10_state.md: the payload buffers (O38), and what a step runs and where it stops (O7, O8). -/

namespace Sys2Proof.Machine

/-! ## The payload buffers -/

/-- Inside a block just written, each byte reads as written. -/
theorem readByte_writeBytes_inside : ∀ (vs : List Byte) (i : Nat) {m : Memory}, Memory.wf m = true →
    ∀ (k : Nat) (hk : k < vs.length), readByte (writeBytes m i vs) (i + k) = vs[k]
  | [], _, _, _, _, hk => absurd hk (Nat.not_lt_zero _)
  | v :: vs, i, _, hm, 0, _ => by
    rw [writeBytes, readByte_writeBytes_outside vs (i + 1) _ _ (by omega)]
    exact readByte_writeByte_same i v hm
  | v :: vs, i, _, hm, k + 1, hk => by
    rw [writeBytes, show i + (k + 1) = i + 1 + k by omega]
    exact readByte_writeBytes_inside vs (i + 1) (writeByte_wf i v hm) k (Nat.lt_of_succ_lt_succ hk)

/-- Settles O38, from the laws of block writes: bytes inside the block, bytes outside it, the block read back. -/
theorem payloadStoreFrame : Obligations.PayloadStoreFrame := by
  intro m b hm
  refine ⟨writeBytes_wf b 0 hm, fun a => ?_, readBytes_writeBytes b 0 m hm⟩
  split
  · next h => simpa using readByte_writeBytes_inside b 0 hm a h
  · next h => exact readByte_writeBytes_outside b 0 a m (by omega)

/-! ## The step -/

theorem step_of_accepting {s : State} (h : s.phase = .idle ∨ s.phase = .faulted) : step s = acceptStep s := by
  rcases h with h | h <;> simp only [step, h]

theorem acceptStep_of_decode {s : State} {d : Decoded} {rest : List Word} (h : decode s.cmdIn = some (d, rest)) :
    acceptStep s = runRecord d (s.setCmdIn rest) := by
  simp only [acceptStep, takeRecord, h]

theorem acceptStep_of_noRecord {s : State} (h : decode s.cmdIn = none) : acceptStep s = .next s := by
  simp only [acceptStep, takeRecord, h]

theorem step_phyWait {s : State} (h : s.phase = .phyWait) : step s = .next (pollPhy s) := by simp only [step, h]

theorem step_asyncWait {s : State} (h : s.phase = .asyncWait) : step s = .next (pollAsync s) := by
  simp only [step, h]

theorem step_fcpWait {s : State} (h : s.phase = .fcpWait) : step s = .next (pollFcp s) := by simp only [step, h]

theorem step_scanWait {s : State} (h : s.phase = .scanWait) : step s = .next (pollScan s) := by simp only [step, h]

/-- Settles O7, phase by phase. -/
theorem stepRunsDecodedInstruction : Obligations.StepRunsDecodedInstruction := by
  refine ⟨fun s i rest hp hd => ?_, fun s r rest hp hd => ?_, fun s hp hd => ?_, fun _ => step_phyWait,
    fun _ => step_asyncWait, fun _ => step_fcpWait, fun _ => step_scanWait⟩
  · exact (step_of_accepting hp).trans (acceptStep_of_decode hd)
  · exact (step_of_accepting hp).trans (acceptStep_of_decode hd)
  · exact (step_of_accepting hp).trans (acceptStep_of_noRecord hd)

/-- No record is refused or stops the machine: every answer, a fault's too, is a next state. -/
theorem runRecord_answers (d : Decoded) (s : State) : ∃ t, runRecord d s = .next t := by
  by_cases hp : s.phase = .faulted
  · exact ⟨_, runRecord_faulted d hp⟩
  · by_cases hd : d = .instr .connect
    · subst hd
      exact ⟨_, accept_ready hp⟩
    · obtain ⟨t, ht, _⟩ := runRecord_outcome d hp hd
      exact ⟨t, ht⟩

theorem acceptStep_answers (s : State) : ∃ t, acceptStep s = .next t := by
  cases hd : decode s.cmdIn with
  | none => exact ⟨s, acceptStep_of_noRecord hd⟩
  | some p => rw [acceptStep_of_decode hd]; exact runRecord_answers _ _

/-- Settles O8, by the phase. -/
theorem stepStopsOnlyInReservedPhases : Obligations.StepStopsOnlyInReservedPhases := by
  refine fun s => ⟨?_, fun h5 h6 => ?_⟩
  · rintro (h | h) <;> simp only [step, h]
  · cases hp : s.phase with
    | idle => rw [step_of_accepting (.inl hp)]; exact acceptStep_answers s
    | faulted => rw [step_of_accepting (.inr hp)]; exact acceptStep_answers s
    | phyWait => exact ⟨_, step_phyWait hp⟩
    | asyncWait => exact ⟨_, step_asyncWait hp⟩
    | fcpWait => exact ⟨_, step_fcpWait hp⟩
    | scanWait => exact ⟨_, step_scanWait hp⟩
    | reserved5 => exact absurd hp h5
    | reserved6 => exact absurd hp h6

end Sys2Proof.Machine
end

section
/-! PROOFS of the family 10_state.md: which inputs a step takes (O9), and what it never takes back (O59). -/

namespace Sys2Proof.Machine

/-! ## What a step leaves and what it only adds to -/

/-- From `u` to `t` at most the phase and the fault registers have changed, and result records were given: how a command
that has got to `u` ends at `t` or starts to wait there. -/
def Reports (u t : State) : Prop :=
  ∃ rs, t = { u with phase := t.phase, faultRegs := t.faultRegs, resOut := u.resOut ++ rs }

theorem Reports.refl (s : State) : Reports s s := ⟨[], by rw [List.append_nil]⟩

theorem Reports.inputs {u t : State} (h : Reports u t) :
    t.cmdIn = u.cmdIn ∧ t.evtIn = u.evtIn ∧ t.polls = u.polls ∧ t.ctx = u.ctx := by
  obtain ⟨rs, h⟩ := h
  rw [h]
  exact ⟨rfl, rfl, rfl, rfl⟩

theorem Waits.reports {s t : State} (h : Waits s t) : ∃ u, Progress s u ∧ Reports u t := by
  obtain ⟨u, hu, ht, _⟩ := h
  refine ⟨u, hu, [], ?_⟩
  rw [List.append_nil, ht]

theorem Ended.reports {s t : State} (h : Ended s t) : ∃ u, Progress s u ∧ Reports u t := by
  obtain ⟨u, ws, hu, ht, _⟩ := h.after
  refine ⟨u, hu, [ws], ?_⟩
  rw [ht]

/-- A poll takes one answer, makes progress, and then goes on waiting or has ended the command. -/
theorem poll_reports {s t : State} (hw : s.phase.waiting = true) (h : step s = .next t) :
    ∃ u, Polled s u ∧ Reports u t := by
  rcases poll_outcome hw h with ht | ⟨u, ws, hu, ht, _⟩
  · exact ⟨t, ht, Reports.refl t⟩
  · refine ⟨u, hu, [ws], ?_⟩
    rw [ht]

/-- Outside the wait phases a step runs a CONNECT, or makes progress from the state with some words taken off CMD_IN. -/
theorem acceptStep_reports {s t : State} (hw : s.phase.waiting = false) (h : step s = .next t) :
    (∃ rest op u, Progress ((s.setCmdIn rest).setCmdOp op) u ∧ Reports u t) ∨
      ∃ rest, decode s.cmdIn = some (.instr .connect, rest) ∧ Connected ((s.setCmdIn rest).setCmdOp 0x0) t := by
  rcases acceptStep_outcome hw h with ⟨_, rfl⟩ | ⟨d, rest, hd, ⟨_, rfl⟩ | ⟨hp, hr⟩⟩
  · exact .inl ⟨t.cmdIn, t.cmdOp, t, Progress.refl t, Reports.refl t⟩
  · exact .inl ⟨rest, s.cmdOp, s.setCmdIn rest, Progress.refl _, _, rfl⟩
  · have hp' : (s.setCmdIn rest).phase ≠ .faulted := by simp [hp]
    by_cases hc : d = .instr .connect
    · subst hc
      have ht := Host.Outcome.next.inj ((accept_ready hp').symm.trans hr)
      exact .inr ⟨rest, hd, ht ▸ connectDevice_outcome _⟩
    · obtain ⟨t', ht', hout⟩ := runRecord_outcome d hp' hc
      cases ht'.symm.trans hr
      obtain ⟨u, hu⟩ := hout.elim Waits.reports Ended.reports
      exact .inl ⟨rest, _, u, hu⟩

/-- Settles O9: a poll by `poll_reports`, a step of IDLE or FAULTED by `acceptStep_reports`. -/
theorem oneInputPerStep : Obligations.OneInputPerStep := by
  refine fun s t h => ⟨fun hw => ?_, fun hp => ?_⟩
  · obtain ⟨u, ⟨_, _, _, hu⟩, ht⟩ := poll_reports hw h
    obtain ⟨hcmd, hevt, hpolls, _⟩ := ht.inputs
    exact ⟨hcmd.trans hu.cmdIn, hevt.trans hu.evtIn, hpolls.trans hu.polls⟩
  · have hw : s.phase.waiting = false := by rcases hp with hp | hp <;> simp [hp, Phase.waiting]
    rcases acceptStep_reports hw h with ⟨_, _, u, hu, ht⟩ | ⟨rest, hd, ws, c, ht, _⟩
    · obtain ⟨_, hevt, hpolls, hctx⟩ := ht.inputs
      refine ⟨hevt.trans hu.evtIn, hpolls.trans hu.polls, fun hg => absurd ?_ hg⟩
      rw [hctx]
      exact hu.gen
    · rw [ht]
      exact ⟨rfl, rfl, fun _ => ⟨rest, hd⟩⟩

/-- From `s` to `t` nothing sticky was cleared, no parameter changed, and the output ports only grew. -/
structure Grows (s t : State) : Prop where
  phyRxEn : s.ctx.phyRxEn = true → t.ctx.phyRxEn = true
  rangeValid : s.ctx.fcpRangeValid = true → t.ctx.fcpRangeValid = true
  genValid : s.ctx.genValid = true → t.ctx.genValid = true
  params : t.params = s.params
  resOut : ∃ rs, t.resOut = s.resOut ++ rs
  subOut : ∃ ss, t.subOut = s.subOut ++ ss

theorem Progress.grows {s t : State} (h : Progress s t) : Grows s t where
  phyRxEn := h.phyRxEn
  rangeValid := h.rangeValid
  genValid := fun hg => h.genValid.trans hg
  params := h.params
  resOut := ⟨[], by rw [h.resOut, List.append_nil]⟩
  subOut := h.subOut.imp fun _ hs => hs.1

theorem Reports.grows {s u t : State} (h : Reports u t) (hu : Grows s u) : Grows s t := by
  obtain ⟨rs, h⟩ := h
  obtain ⟨rs', hres⟩ := hu.resOut
  rw [h]
  exact ⟨hu.phyRxEn, hu.rangeValid, hu.genValid, hu.params, ⟨rs' ++ rs, by rw [hres, List.append_assoc]⟩, hu.subOut⟩

theorem Polled.grows {s t : State} (h : Polled s t) : Grows s t := by
  obtain ⟨_, _, _, h⟩ := h
  exact { h.grows with }

theorem Connected.grows {s t : State} (h : Connected s t) : Grows s t := by
  obtain ⟨ws, c, h, _, _, hrx, hrange, hgen⟩ := h
  rw [h]
  exact ⟨hrx.trans, hrange.trans, hgen, rfl, ⟨[ws], rfl⟩, ⟨[.getInfo], rfl⟩⟩

/-- No command and no poll clears a sticky bit or takes anything back from an output port. -/
theorem step_grows {s t : State} (h : step s = .next t) : Grows s t := by
  cases hw : s.phase.waiting with
  | true =>
    obtain ⟨u, hu, ht⟩ := poll_reports hw h
    exact ht.grows hu.grows
  | false =>
    rcases acceptStep_reports hw h with ⟨rest, op, u, hu, ht⟩ | ⟨rest, _, hc⟩
    · have hs : Grows s u := { hu.grows with }
      exact ht.grows hs
    · exact { hc.grows with }

/-- Settles O59. -/
theorem stickyStateAndGrowingPorts : Obligations.StickyStateAndGrowingPorts := fun _ _ h =>
  have hg := step_grows h
  ⟨hg.phyRxEn, hg.rangeValid, hg.genValid, hg.params, hg.resOut, hg.subOut⟩

end Sys2Proof.Machine
end

section
/-! PROOFS of the family 10_state.md: every step keeps the invariant (O58). `RegistersLegal` and `PhaseLegal` take the
invariant apart; each operation, command and handler keeps them; `stepKeepsInv` puts them together. -/

namespace Sys2Proof.Machine

/-! ## The invariant, taken apart: what the registers hold in every phase, and what each phase adds -/

/-- The part of the invariant that does not depend on the phase. -/
structure RegistersLegal (s : State) : Prop where
  faultCodeLegal : s.faultRegs.code ≠ 1 ∧ s.faultRegs.code.toNat < 8
  rxMaskLegal : s.scan.rxMask &&& 3 = 0
  chainHasRoom : s.flags.awaitResp = true → s.chain.len ≠ 3
  connectedOpen : s.ctx.genValid = true → s.params.deviceHandle ≠ none
  rangeLegal : s.ctx.fcpRangeValid = true →
    s.ctx.fcpRangeBase = s.params.fcpRespAddr ∧ s.ctx.fcpRangeLen = s.params.fcpRespLen
  buffersCanonical : Memory.wf s.req.payload = true ∧ Memory.wf s.resp.data = true ∧ Memory.wf s.fcp.reply = true

/-- The part of the invariant that belongs to the phase. -/
def PhaseLegal (s : State) : Prop :=
  match s.phase with
  | .idle => True
  | .phyWait => s.ctx.genValid = true ∧ PhyWaitLegal s
  | .asyncWait => s.ctx.genValid = true ∧ (s.cmdOp = 0x3 ∨ s.cmdOp = 0x4 ∨ s.cmdOp = 0x5)
  | .fcpWait => s.ctx.genValid = true ∧ FcpWaitLegal s
  | .scanWait => s.ctx.genValid = true ∧ ScanWaitLegal s
  | .reserved5 => False
  | .reserved6 => False
  | .faulted => (s.faultRegs.code = 2 ∨ s.faultRegs.code = 4 ∨ s.faultRegs.code = 5) ∧
      (s.faultRegs.code = 5 → s.faultRegs.info = s.ctx.gen)

theorem State.Inv.registers {s : State} (h : State.Inv s) : RegistersLegal s := { h with }

theorem State.Inv.phaseIsLegal {s : State} (h : State.Inv s) : PhaseLegal s := by
  unfold PhaseLegal
  split
  · trivial
  · next hp => exact ⟨h.waitingConnected (by rw [hp]; rfl), h.phyWaitLegal hp⟩
  · next hp => exact ⟨h.waitingConnected (by rw [hp]; rfl), h.asyncWaitLegal hp⟩
  · next hp => exact ⟨h.waitingConnected (by rw [hp]; rfl), h.fcpWaitLegal hp⟩
  · next hp => exact ⟨h.waitingConnected (by rw [hp]; rfl), h.scanWaitLegal hp⟩
  · next hp => exact h.phaseLegal.1 hp
  · next hp => exact h.phaseLegal.2 hp
  · next hp => exact ⟨h.faultedFatal hp, h.faultedGeneration hp⟩

theorem RegistersLegal.inv {s : State} (h : RegistersLegal s) (hp : PhaseLegal s) : State.Inv s :=
  { h with
    phaseLegal := ⟨fun e => by simp only [PhaseLegal, e] at hp, fun e => by simp only [PhaseLegal, e] at hp⟩
    faultedFatal := fun e => by simp only [PhaseLegal, e] at hp; exact hp.1
    faultedGeneration := fun e => by simp only [PhaseLegal, e] at hp; exact hp.2
    waitingConnected := fun hw => by
      cases e : s.phase <;> simp only [PhaseLegal, e, Phase.waiting, Bool.false_eq_true] at hp hw <;> exact hp.1
    phyWaitLegal := fun e => by simp only [PhaseLegal, e] at hp; exact hp.2
    asyncWaitLegal := fun e => by simp only [PhaseLegal, e] at hp; exact hp.2
    fcpWaitLegal := fun e => by simp only [PhaseLegal, e] at hp; exact hp.2
    scanWaitLegal := fun e => by simp only [PhaseLegal, e] at hp; exact hp.2 }

/-! ## Endings, guards and submissions -/

theorem finish_inv {s : State} (h : RegistersLegal s) (status : BitVec 4) (rcode : BitVec 5) (info : Word)
    (data : List Byte) : State.Inv (finish status rcode info data s) :=
  RegistersLegal.inv { h with } trivial

theorem FaultKind.code_legal (k : FaultKind) : k.code ≠ 1 ∧ k.code.toNat < 8 := by cases k <;> decide

/-- A fault keeps the invariant; a BusReset fault has to report the cached generation. -/
theorem raiseReporting_inv {s : State} (h : RegistersLegal s) {k : FaultKind} {info : Word}
    (hk : k = .busReset → info = s.ctx.gen) (resultInfo : Word) (data : List Byte) :
    State.Inv (raiseReporting k info resultInfo data s) := by
  have hregs : RegistersLegal (raiseReporting k info resultInfo data s) :=
    { h with faultCodeLegal := k.code_legal }
  refine hregs.inv ?_
  cases k with
  | ioFailure => exact ⟨.inl rfl, fun e => by cases e⟩
  | protocolCorruption => exact ⟨.inr (.inl rfl), fun e => by cases e⟩
  | busReset => exact ⟨.inr (.inr rfl), fun _ => hk rfl⟩
  | protocolTimeout => trivial
  | invalidOperandWidth => trivial
  | invalidArgument => trivial

theorem raise_inv {s : State} (h : RegistersLegal s) {k : FaultKind} (hk : k ≠ .busReset) (info : Word) :
    State.Inv (raise k info s) :=
  raiseReporting_inv h (fun e => absurd e hk) info []

/-- The fault of a bus reset that arrives in a wait phase (60_exceptions.md R504). -/
theorem raiseBusReset_inv {s : State} (h : RegistersLegal s) : State.Inv (raise .busReset s.ctx.gen s) :=
  raiseReporting_inv h (fun _ => rfl) _ []

theorem requireConnected_inv {s : State} (h : RegistersLegal s) :
    (requireConnected s).Sat (fun t => t = s ∧ s.ctx.genValid = true) State.Inv := by
  unfold requireConnected
  split
  · next hg => exact ⟨rfl, hg⟩
  · exact raise_inv h (by simp) _

theorem requireLength_inv {s : State} (h : RegistersLegal s) (n : Nat) :
    (requireLength n s).Sat (fun t => t = s) State.Inv := by
  unfold requireLength
  split
  · exact raise_inv h (by simp) _
  · rfl

theorem requireLockOperands_inv {s : State} (h : RegistersLegal s) (k : LockKind) (a b : List Byte) :
    (requireLockOperands k a b s).Sat (fun t => t = s) State.Inv := by
  unfold requireLockOperands
  split
  · exact raise_inv h (by simp) _
  · rfl

theorem requireChainCount_inv {s : State} (h : RegistersLegal s) (n : BitVec 16) :
    (requireChainCount n s).Sat (fun t => t = s) State.Inv := by
  unfold requireChainCount
  split
  · rfl
  · exact raise_inv h (by simp) _

theorem requireCarriedFields_inv {s : State} (h : RegistersLegal s) (n : Nat) (f0 f1 : Word) :
    (requireCarriedFields n f0 f1 s).Sat (fun t => t = s) State.Inv := by
  unfold requireCarriedFields
  split
  · rfl
  · exact raise_inv h (by simp) _

theorem RegistersLegal.setCmdOp {s : State} (h : RegistersLegal s) (opc : BitVec 4) :
    RegistersLegal (s.setCmdOp opc) := { h with }

theorem RegistersLegal.putSub {s : State} (h : RegistersLegal s) (x : Submission) : RegistersLegal (s.putSub x) :=
  { h with }

theorem submit_inv {s : State} (h : RegistersLegal s) (x : Submission) :
    (submit x s).Sat (fun t => t = s.putSub x) State.Inv := by
  rcases submit_cases x s with hs | hs <;> rw [hs]
  · rfl
  · exact raise_inv (h.putSub x) (by simp) _

/-- Only submissions were made from `s` to `t`, and PHY reception may have been armed. -/
def Submitted (rx : Bool) (s t : State) : Prop :=
  ∃ xs as, t = { s with ctx := { s.ctx with phyRxEn := rx }, subOut := xs, submitAnswers := as }

theorem Submitted.registers {rx : Bool} {s t : State} (h : Submitted rx s t) (hs : RegistersLegal s) :
    RegistersLegal t := by
  obtain ⟨xs, as, rfl⟩ := h
  exact { hs with }

theorem armPhyRx_inv {s : State} (h : RegistersLegal s) :
    (armPhyRx s).Sat (Submitted true s) State.Inv := by
  rcases armPhyRx_cases s with ⟨hrx, hs⟩ | ⟨_, hs⟩ | ⟨_, hs⟩ <;> rw [hs]
  · exact ⟨s.subOut, s.submitAnswers, by rw [← hrx]⟩
  · exact ⟨_, _, rfl⟩
  · exact raise_inv (h.putSub _) (by simp) _

theorem submitScan_inv (phy : BitVec 6) : ∀ (regs : List Nat) {s : State}, RegistersLegal s →
    (submitScan phy regs s).Sat (Submitted s.ctx.phyRxEn s) State.Inv
  | [], s, _ => ⟨s.subOut, s.submitAnswers, rfl⟩
  | _ :: regs, s, h => by
    refine (submit_inv h _).bind ?_
    rintro _ rfl
    refine (submitScan_inv phy regs (h.putSub _)).mono ?_
    rintro _ ⟨xs, as, rfl⟩
    exact ⟨xs, as, rfl⟩

theorem submitAsync_inv {s : State} (h : RegistersLegal s) :
    (submitAsync s).Sat
      (fun t => t = countSubmission ((stampRequest s).putSub (asyncSubmission (stampRequest s).req))) State.Inv := by
  have hs : RegistersLegal (stampRequest s) := { h with }
  rcases submitAsync_cases s with h' | h' <;> rw [h']
  · rfl
  · exact raise_inv (hs.putSub _) (by simp) _

/-! ## What a wait keeps while its events come in -/

/-- PHY_WAIT between an event's handler and the completion test: all it needs but a signal still awaited. -/
structure PhyRunning (s : State) : Prop where
  registers : RegistersLegal s
  phase : s.phase = .phyWait
  connected : s.ctx.genValid = true
  command : s.cmdOp = 0x1 ∨ s.cmdOp = 0x2
  rtt : s.flags.rttValid = !s.flags.awaitSent
  armed : s.flags.awaitResp = true → s.pending.mask ≠ 0 ∧ s.ctx.phyRxEn = true

theorem PhyRunning.inv {s : State} (h : PhyRunning s) (ha : s.flags.awaitSent = true ∨ s.flags.awaitResp = true) :
    State.Inv s :=
  h.registers.inv (by
    simp only [PhaseLegal, h.phase]
    exact ⟨h.connected, h.command, ha, h.rtt, h.armed⟩)

theorem State.Inv.phyRunning {s : State} (h : State.Inv s) (hp : s.phase = .phyWait) : PhyRunning s :=
  have hw := h.phyWaitLegal hp
  ⟨h.registers, hp, h.waitingConnected (by rw [hp]; rfl), hw.command, hw.rtt, hw.armed⟩

/-- ASYNC_WAIT needs its own command and a connection. -/
theorem RegistersLegal.inv_asyncWait {s : State} (h : RegistersLegal s) (hp : s.phase = .asyncWait)
    (hg : s.ctx.genValid = true) (hc : s.cmdOp = 0x3 ∨ s.cmdOp = 0x4 ∨ s.cmdOp = 0x5) : State.Inv s :=
  h.inv (by simp only [PhaseLegal, hp]; exact ⟨hg, hc⟩)

/-- FCP_WAIT between an event's handler and the completion test. -/
structure FcpRunning (s : State) : Prop where
  registers : RegistersLegal s
  phase : s.phase = .fcpWait
  connected : s.ctx.genValid = true
  command : s.cmdOp = 0xA
  range : s.ctx.fcpRangeValid = true

theorem FcpRunning.inv {s : State} (h : FcpRunning s)
    (ha : ¬ (s.flags.fcpAckDone = true ∧ s.flags.fcpReqDone = true)) : State.Inv s :=
  h.registers.inv (by
    simp only [PhaseLegal, h.phase]
    exact ⟨h.connected, h.command, h.range, ha⟩)

theorem State.Inv.fcpRunning {s : State} (h : State.Inv s) (hp : s.phase = .fcpWait) : FcpRunning s :=
  have hw := h.fcpWaitLegal hp
  ⟨h.registers, hp, h.waitingConnected (by rw [hp]; rfl), hw.command, hw.range⟩

/-- SCAN_WAIT between an event's handler and the completion test. -/
structure ScanRunning (s : State) : Prop where
  registers : RegistersLegal s
  phase : s.phase = .scanWait
  connected : s.ctx.genValid = true
  command : s.cmdOp = 0x9
  armed : s.ctx.phyRxEn = true
  predicate : s.pending = { mask := scanMask, bits := scanBits s.scan.phy }

theorem ScanRunning.inv {s : State} (h : ScanRunning s) (ha : s.scan.rxMask ≠ 0xFC) : State.Inv s :=
  h.registers.inv (by
    simp only [PhaseLegal, h.phase]
    exact ⟨h.connected, h.command, h.armed, h.predicate, ha⟩)

theorem State.Inv.scanRunning {s : State} (h : State.Inv s) (hp : s.phase = .scanWait) : ScanRunning s :=
  have hw := h.scanWaitLegal hp
  ⟨h.registers, hp, h.waitingConnected (by rw [hp]; rfl), hw.command, hw.armed, hw.predicate⟩

/-! ## The commands up to their end or their wait -/

theorem sendPhyPacket_inv {s : State} (h : RegistersLegal s) (hc : s.cmdOp = 0x1 ∨ s.cmdOp = 0x2)
    (d0 d1 mask bits : Word) : (sendPhyPacket d0 d1 mask bits s).Sat State.Inv State.Inv := by
  have hstart : RegistersLegal (phyStart mask bits s) := { h with chainHasRoom := fun _ => by simp [phyStart] }
  refine (requireConnected_inv h).bind ?_
  rintro s ⟨rfl, hg⟩
  have harm : (armForResponse mask (phyStart mask bits s)).Sat
      (fun t => ∃ rx, Submitted rx (phyStart mask bits s) t ∧ (mask ≠ 0 → rx = true)) State.Inv := by
    unfold armForResponse
    split
    · next hm => exact ⟨_, ⟨_, _, rfl⟩, absurd hm⟩
    · exact (armPhyRx_inv hstart).mono fun _ ht => ⟨true, ht, fun _ => rfl⟩
  refine harm.bind ?_
  rintro t ⟨rx, ht, hrx⟩
  have hregs := ht.registers hstart
  refine (submit_inv hregs _).bind ?_
  rintro _ rfl
  obtain ⟨xs, as, rfl⟩ := ht
  refine PhyRunning.inv ⟨{ hregs with }, rfl, hg, hc, rfl, fun ha => ?_⟩ (.inl rfl)
  have hm : mask ≠ 0 := by simpa [phyStart, flagsAtPhyStart] using ha
  exact ⟨hm, hrx hm⟩

theorem sendAsync_inv {s : State} (h : RegistersLegal s) (hg : s.ctx.genValid = true)
    (hc : s.cmdOp = 0x3 ∨ s.cmdOp = 0x4 ∨ s.cmdOp = 0x5) : (sendAsync s).Sat State.Inv State.Inv := by
  refine (submitAsync_inv (s := clearSubmits s) { h with }).bind ?_
  rintro _ rfl
  exact RegistersLegal.inv_asyncWait { h with } rfl hg hc

theorem loadRequest_registers {s : State} (h : RegistersLegal s) (tcode : BitVec 5) (offset : Offset)
    (payload : List Byte) : RegistersLegal (loadRequest tcode offset payload s) :=
  have ⟨hreq, hresp, hreply⟩ := h.buffersCanonical
  { h with buffersCanonical := ⟨writeBytes_wf payload 0 hreq, hresp, hreply⟩ }

theorem asyncLockOf_inv {s : State} (h : RegistersLegal s) (hc : s.cmdOp = 0x5) (k : LockKind) (o : Offset)
    (a b : List Byte) : (asyncLockOf k o a b s).Sat State.Inv State.Inv := by
  refine (requireConnected_inv h).bind ?_
  rintro _ ⟨rfl, hg⟩
  refine (requireLockOperands_inv h k a b).bind ?_
  rintro _ rfl
  exact sendAsync_inv (loadRequest_registers h _ _ _) hg (.inr (.inr hc))

theorem encodeLockOf_inv {s : State} (h : RegistersLegal s) (k : LockKind) (a b : List Byte) :
    (encodeLockOf k a b s).Sat State.Inv State.Inv := by
  refine (requireLockOperands_inv h k a b).bind ?_
  rintro _ rfl
  exact finish_inv h _ _ _ _

theorem decodeChain_inv {s : State} (h : RegistersLegal s) (n : BitVec 16) (ws : List Word) :
    (decodeChain n ws s).Sat State.Inv State.Inv := by
  refine (requireChainCount_inv h n).bind ?_
  rintro _ rfl
  exact finish_inv h _ _ _ _

theorem encodeChain_inv {s : State} (h : RegistersLegal s) (n : BitVec 16) (f0 f1 : Word) :
    (encodeChain n f0 f1 s).Sat State.Inv State.Inv := by
  refine (requireChainCount_inv h n).bind ?_
  rintro _ rfl
  refine (requireCarriedFields_inv h _ f0 f1).bind ?_
  rintro _ rfl
  exact finish_inv h _ _ _ _

theorem startScan_inv {s : State} (h : RegistersLegal s) (hc : s.cmdOp = 0x9) (phy : BitVec 6) :
    (startScan phy s).Sat State.Inv State.Inv := by
  have hstart : RegistersLegal (scanStart phy s) := { h with rxMaskLegal := by simp [scanStart] }
  refine (requireConnected_inv h).bind ?_
  rintro _ ⟨rfl, hg⟩
  refine (armPhyRx_inv hstart).bind ?_
  intro t ht
  have hregs := ht.registers hstart
  refine (submitScan_inv phy _ hregs).bind ?_
  intro u hu
  have hregs' := hu.registers hregs
  obtain ⟨xs, as, rfl⟩ := ht
  obtain ⟨xs', as', rfl⟩ := hu
  exact ScanRunning.inv ⟨{ hregs' with }, rfl, hg, hc, rfl, rfl⟩ (by simp [scanStart])

theorem fcpAllocate_inv {s : State} (h : RegistersLegal s) :
    (fcpAllocate s).Sat (fun t => RegistersLegal t ∧ t.ctx.fcpRangeValid = true ∧
      t.ctx.genValid = s.ctx.genValid ∧ t.cmdOp = s.cmdOp ∧ t.flags = s.flags) State.Inv := by
  unfold fcpAllocate
  split
  · next hr => exact ⟨h, hr, rfl, rfl, rfl⟩
  · refine (submit_inv h _).bind ?_
    rintro _ rfl
    exact ⟨{ h with rangeLegal := fun _ => ⟨rfl, rfl⟩ }, rfl, rfl, rfl, rfl⟩

theorem sendFcpCommand_inv {s : State} (h : RegistersLegal s) (hc : s.cmdOp = 0xA) (payload : List Byte) :
    (sendFcpCommand payload s).Sat State.Inv State.Inv := by
  refine (requireConnected_inv h).bind ?_
  rintro _ ⟨rfl, hg⟩
  refine (requireLength_inv h _).bind ?_
  rintro s rfl
  refine (fcpAllocate_inv (s := fcpStart s) { h with }).bind ?_
  rintro t ⟨ht, hrange, hgen, hop, hflags⟩
  have hload : RegistersLegal (loadFcpWrite payload t) := loadRequest_registers ht _ _ payload
  refine (submitAsync_inv (s := clearSubmits (loadFcpWrite payload t)) { hload with }).bind ?_
  rintro _ rfl
  refine FcpRunning.inv ⟨{ hload with }, rfl, hgen.trans hg, hop.trans hc, hrange⟩ fun ha => ?_
  have hack : t.flags.fcpAckDone = true := ha.1
  rw [hflags] at hack
  cases hack

theorem requestBusReset_inv {s : State} (h : RegistersLegal s) (kind : BitVec 4) :
    (requestBusReset kind s).Sat State.Inv State.Inv := by
  refine (requireConnected_inv h).bind ?_
  rintro _ ⟨rfl, _⟩
  refine (submit_inv h _).bind ?_
  rintro _ rfl
  exact finish_inv (h.putSub _) _ _ _ _

theorem connectDevice_inv {s : State} (h : RegistersLegal s) : (connectDevice s).Sat State.Inv State.Inv := by
  have hput : RegistersLegal s.putGetInfo := { h with }
  show State.Inv (onGetInfo s.params.deviceHandle (infoAnswer s) s.putGetInfo)
  cases hd : s.params.deviceHandle with
  | none => exact raise_inv hput (by simp) _
  | some handle =>
    cases infoAnswer s with
    | rejected => exact raise_inv hput (by simp) _
    | ok r =>
      have hload : RegistersLegal (loadContext r s.putGetInfo) :=
        { hput with connectedOpen := fun _ => by simp [loadContext, hd] }
      exact finish_inv hload _ _ _ _

/-! ## Taking a record -/

theorem Flow.Sat.state {P : State → Prop} {f : Flow} (h : f.Sat P P) : P f.state := by
  cases f with
  | go _ => exact h
  | ended _ => exact h

theorem accept_inv {opc : BitVec 4} {body : State → Flow} {s : State} (hp : s.phase ≠ .faulted)
    (h : (body (s.setCmdOp opc)).Sat State.Inv State.Inv) : ∃ t, accept opc body s = .next t ∧ State.Inv t :=
  ⟨_, accept_ready hp, h.state⟩

theorem rejection_inv {s : State} (h : RegistersLegal s) {k : FaultKind} (hk : k ≠ .busReset) (info : Word) :
    ((requireConnected s).andThen fun t => .ended (raise k info t)).Sat State.Inv State.Inv := by
  refine (requireConnected_inv h).bind ?_
  rintro _ ⟨rfl, _⟩
  exact raise_inv h hk info

theorem execAsyncRead_inv {s : State} (h : RegistersLegal s) (hp : s.phase ≠ .faulted)
    (offset : Offset) (len : BitVec 16) : ∃ t, execAsyncRead offset len s = .next t ∧ State.Inv t := by
  refine accept_inv hp ((requireConnected_inv (h.setCmdOp _)).bind ?_)
  rintro _ ⟨rfl, hg⟩
  refine (requireLength_inv (h.setCmdOp _) _).bind ?_
  rintro _ rfl
  exact sendAsync_inv { h with } hg (.inl rfl)

theorem execAsyncWrite_inv {s : State} (h : RegistersLegal s) (hp : s.phase ≠ .faulted)
    (offset : Offset) (payload : List Byte) : ∃ t, execAsyncWrite offset payload s = .next t ∧ State.Inv t := by
  refine accept_inv hp ((requireConnected_inv (h.setCmdOp _)).bind ?_)
  rintro _ ⟨rfl, hg⟩
  refine (requireLength_inv (h.setCmdOp _) _).bind ?_
  rintro _ rfl
  exact sendAsync_inv (loadRequest_registers (h.setCmdOp _) _ _ _) hg (.inr (.inl rfl))

/-- Running any record outside FAULTED ends in a state with the invariant. -/
theorem runRecord_inv {s : State} (d : Decoded) (h : RegistersLegal s) (hp : s.phase ≠ .faulted) :
    ∃ t, runRecord d s = .next t ∧ State.Inv t := by
  cases d with
  | instr i =>
    cases i with
    | connect => exact accept_inv hp (connectDevice_inv (h.setCmdOp _))
    | sendPhy d0 d1 m b => exact accept_inv hp (sendPhyPacket_inv (h.setCmdOp _) (.inl rfl) d0 d1 m b)
    | sendPhySym q m b => exact accept_inv hp (sendPhyPacket_inv (h.setCmdOp _) (.inr rfl) q (complementWord q) m b)
    | asyncRead o len => exact execAsyncRead_inv h hp o len
    | asyncWrite o b => exact execAsyncWrite_inv h hp o b
    | asyncLockMaskSwap o a b => exact accept_inv hp (asyncLockOf_inv (h.setCmdOp _) rfl _ o a b)
    | asyncLockCompareSwap o a b => exact accept_inv hp (asyncLockOf_inv (h.setCmdOp _) rfl _ o a b)
    | asyncLockFetchAdd o a b => exact accept_inv hp (asyncLockOf_inv (h.setCmdOp _) rfl _ o a b)
    | asyncLockLittleAdd o a b => exact accept_inv hp (asyncLockOf_inv (h.setCmdOp _) rfl _ o a b)
    | asyncLockBoundedAdd o a b => exact accept_inv hp (asyncLockOf_inv (h.setCmdOp _) rfl _ o a b)
    | asyncLockWrapAdd o a b => exact accept_inv hp (asyncLockOf_inv (h.setCmdOp _) rfl _ o a b)
    | encodeLockMaskSwap a b => exact accept_inv hp (encodeLockOf_inv (h.setCmdOp _) _ a b)
    | encodeLockCompareSwap a b => exact accept_inv hp (encodeLockOf_inv (h.setCmdOp _) _ a b)
    | encodeLockFetchAdd a b => exact accept_inv hp (encodeLockOf_inv (h.setCmdOp _) _ a b)
    | encodeLockLittleAdd a b => exact accept_inv hp (encodeLockOf_inv (h.setCmdOp _) _ a b)
    | encodeLockBoundedAdd a b => exact accept_inv hp (encodeLockOf_inv (h.setCmdOp _) _ a b)
    | encodeLockWrapAdd a b => exact accept_inv hp (encodeLockOf_inv (h.setCmdOp _) _ a b)
    | decodeSelfId n ws => exact accept_inv hp (decodeChain_inv (h.setCmdOp _) n ws)
    | encodeSelfId n f0 f1 => exact accept_inv hp (encodeChain_inv (h.setCmdOp _) n f0 f1)
    | scanPhyRegs phy => exact accept_inv hp (startScan_inv (h.setCmdOp _) rfl phy)
    | sendFcp b => exact accept_inv hp (sendFcpCommand_inv (h.setCmdOp _) rfl b)
    | busResetReqLong => exact accept_inv hp (requestBusReset_inv (h.setCmdOp _) _)
    | busResetReqShort => exact accept_inv hp (requestBusReset_inv (h.setCmdOp _) _)
    | illegalC _ => exact accept_inv (body := illegalOpcode) hp (raise_inv (h.setCmdOp _) (by simp) _)
    | illegalD _ => exact accept_inv (body := illegalOpcode) hp (raise_inv (h.setCmdOp _) (by simp) _)
    | illegalE _ => exact accept_inv (body := illegalOpcode) hp (raise_inv (h.setCmdOp _) (by simp) _)
    | illegalF _ => exact accept_inv (body := illegalOpcode) hp (raise_inv (h.setCmdOp _) (by simp) _)
  | reject r =>
    cases r with
    | reservedBits opc => exact accept_inv (body := rejectReservedBits) hp (raise_inv (h.setCmdOp _) (by simp) _)
    | badAsyncLockOp => exact accept_inv hp (rejection_inv (h.setCmdOp _) (by simp) _)
    | badEncodeLockOp => exact accept_inv (body := rejectEncodeLock) hp (raise_inv (h.setCmdOp _) (by simp) _)
    | badResetKind => exact accept_inv hp (rejection_inv (h.setCmdOp _) (by simp) _)

/-! ## The polls -/

theorem RegistersLegal.takePoll {s : State} (h : RegistersLegal s) : RegistersLegal s.takePoll := { h with }

/-- A poll that itself ends the command keeps the invariant. -/
theorem nextEvent_ended_inv {s u : State} (h : RegistersLegal s) (he : nextEvent s = .ended u) : State.Inv u := by
  rcases nextEvent_ended he with rfl | rfl | rfl <;> exact raise_inv h.takePoll (by simp) _

/-- The state that an event's handler starts from keeps the invariant: of the wait phases' terms the bus-reset update
touches none. -/
theorem State.Inv.afterEvent {s u : State} {e : Event} (h : State.Inv s) (hw : s.phase.waiting = true)
    (he : nextEvent s = .event e u) : State.Inv u ∧ u.phase = s.phase := by
  obtain ⟨g, loc, root, hu⟩ := onBusReset_eq e s.takePoll
  rw [nextEvent_state he, hu]
  refine ⟨RegistersLegal.inv { h.registers with } ?_, rfl⟩
  have hp := h.phaseIsLegal
  cases hph : s.phase with
  | phyWait | fcpWait | scanWait =>
    simp only [PhaseLegal, hph, setCtx_phase, takePoll_phase] at hp ⊢
    exact ⟨hp.1, { hp.2 with }⟩
  | asyncWait =>
    simp only [PhaseLegal, hph, setCtx_phase, takePoll_phase] at hp ⊢
    exact hp
  | idle | reserved5 | reserved6 | faulted => simp [hph, Phase.waiting] at hw

/-- What a wait phase makes of its poll: the four polls differ in their answers to TIMEOUT and to an event only. -/
def Poll.resume (onTimeout : State → State) (onEvent : Event → State → Flow) : Poll → State
  | .ended s => s
  | .timeout s => onTimeout s
  | .event e s => (onEvent e s).state

theorem pollPhy_eq (s : State) : pollPhy s = (nextEvent s).resume (raise .protocolTimeout (phaseCode .phyWait))
    fun e u => (onPhyEvent e u).andThen fun t => .go (completePhy t) := rfl

theorem pollAsync_eq (s : State) :
    pollAsync s = (nextEvent s).resume (raise .protocolTimeout (phaseCode .asyncWait)) onAsyncEvent := rfl

theorem pollFcp_eq (s : State) : pollFcp s = (nextEvent s).resume (raise .protocolTimeout (phaseCode .fcpWait))
    fun e u => (onFcpEvent e u).andThen fun t => .go (completeFcp t) := rfl

theorem pollScan_eq (s : State) : pollScan s = (nextEvent s).resume scanTimeout
    fun e u => (onScanEvent e u).andThen fun t => .go (completeScan t) := rfl

/-- A poll keeps the invariant if the phase's answers to TIMEOUT and to an event do. -/
theorem State.Inv.resume {s : State} (h : State.Inv s) (hw : s.phase.waiting = true) {onTimeout : State → State}
    {onEvent : Event → State → Flow} (ht : ∀ u, RegistersLegal u → State.Inv (onTimeout u))
    (hev : ∀ e u, State.Inv u → u.phase = s.phase → (onEvent e u).Sat State.Inv State.Inv) :
    State.Inv ((nextEvent s).resume onTimeout onEvent) := by
  cases he : nextEvent s with
  | ended u => exact nextEvent_ended_inv h.registers he
  | timeout u =>
    obtain ⟨_, rfl⟩ := nextEvent_timeout he
    exact ht _ h.registers.takePoll
  | event e u =>
    obtain ⟨hu, hpu⟩ := h.afterEvent hw he
    exact (hev e u hu hpu).state

/-- A matching Self-ID word leaves room in the chain, or ends the wait for a response (41_phy_transaction.md R245). -/
theorem acceptSelfId_running {s : State} (w : Word) (h : PhyRunning s) : PhyRunning (acceptSelfId w s) := by
  unfold acceptSelfId
  split
  · exact ⟨{ h.registers with chainHasRoom := fun e => by cases e }, h.phase, h.connected, h.command, h.rtt,
      fun e => by cases e⟩
  · next hmore =>
    have hroom : s.chain.len + 1 ≠ 3 := fun e => hmore (.inr e)
    exact ⟨{ h.registers with chainHasRoom := fun _ => hroom }, h.phase, h.connected, h.command, h.rtt, h.armed⟩

theorem onPhyReceived_running {s : State} (w : Word) (h : PhyRunning s) : PhyRunning (onPhyReceived w s) := by
  unfold onPhyReceived
  split
  · split
    · exact acceptSelfId_running w h
    · exact ⟨{ h.registers with chainHasRoom := fun e => by cases e }, h.phase, h.connected, h.command, h.rtt,
        fun e => by cases e⟩
  · exact h

theorem onPhyEvent_inv {s : State} (e : Event) (h : PhyRunning s) : (onPhyEvent e s).Sat PhyRunning State.Inv := by
  cases e with
  | sent status ticks =>
    simp only [onPhyEvent, onPhySent]
    split
    · exact ⟨{ h.registers with }, h.phase, h.connected, h.command, rfl, h.armed⟩
    · exact raise_inv h.registers (by simp) _
  | phyReceived w => exact onPhyReceived_running w h
  | busReset _ _ _ => exact raiseBusReset_inv h.registers
  | asyncResponse _ _ _ _ => exact h
  | asyncRequest _ _ _ _ _ => exact h
  | other => exact h

theorem completePhy_inv {s : State} (h : PhyRunning s) : State.Inv (completePhy s) := by
  unfold completePhy
  split
  · exact finish_inv h.registers _ _ _ _
  · next hd =>
    refine h.inv ?_
    cases hs : s.flags.awaitSent <;> simp [phyDone, hs] at hd ⊢
    exact hd

theorem pollPhy_inv {s : State} (h : State.Inv s) (hp : s.phase = .phyWait) : State.Inv (pollPhy s) := by
  rw [pollPhy_eq]
  exact h.resume (by rw [hp]; rfl) (fun _ hu => raise_inv hu (by simp) _) fun e u hu hpu =>
    (onPhyEvent_inv e (hu.phyRunning (hpu.trans hp))).bind fun _ => completePhy_inv

theorem storeResponse_registers {s : State} (h : RegistersLegal s) (rc : BitVec 5) (n : BitVec 16)
    (p : List Byte) : RegistersLegal (storeResponse rc n p s) :=
  have ⟨hreq, hresp, hreply⟩ := h.buffersCanonical
  { h with buffersCanonical := ⟨hreq, writeBytes_wf p 0 hresp, hreply⟩ }

theorem onAsyncEvent_inv {s : State} (e : Event) (h : State.Inv s) (hp : s.phase = .asyncWait) :
    (onAsyncEvent e s).Sat State.Inv State.Inv := by
  cases e with
  | asyncResponse rc n p _ =>
    have hstored := storeResponse_registers h.registers rc n p
    simp only [onAsyncEvent, onAsyncResponse]
    split
    · split
      · exact finish_inv hstored _ _ _ _
      · refine (submitAsync_inv h.registers).mono ?_
        rintro _ rfl
        exact RegistersLegal.inv_asyncWait { h.registers with } hp (h.waitingConnected (by rw [hp]; rfl))
          (h.asyncWaitLegal hp)
    · exact finish_inv hstored _ _ _ _
  | busReset _ _ _ => exact h
  | asyncRequest _ _ _ _ _ => exact h
  | sent _ _ => exact h
  | phyReceived _ => exact h
  | other => exact h

theorem pollAsync_inv {s : State} (h : State.Inv s) (hp : s.phase = .asyncWait) : State.Inv (pollAsync s) := by
  rw [pollAsync_eq]
  exact h.resume (by rw [hp]; rfl) (fun _ hu => raise_inv hu (by simp) _) fun e u hu hpu =>
    onAsyncEvent_inv e hu (hpu.trans hp)

theorem storeFcpReply_running {s : State} (h : FcpRunning s) (m : BitVec 16) (p : List Byte) :
    FcpRunning (storeFcpReply m p s) :=
  have ⟨hreq, hresp, hreply⟩ := h.registers.buffersCanonical
  ⟨{ h.registers with buffersCanonical := ⟨hreq, hresp, writeBytes_wf p 0 hreply⟩ }, h.phase, h.connected,
    h.command, h.range⟩

theorem onFcpEvent_inv {s : State} (e : Event) (h : FcpRunning s) : (onFcpEvent e s).Sat FcpRunning State.Inv := by
  cases e with
  | asyncResponse rc _ _ _ =>
    have hstored : RegistersLegal (storeFcpAck rc s) := { h.registers with }
    simp only [onFcpEvent, onFcpResponse]
    split
    · exact h
    · split
      · exact ⟨{ hstored with }, h.phase, h.connected, h.command, h.range⟩
      · exact finish_inv hstored _ _ _ _
  | asyncRequest handle _ offset m p =>
    simp only [onFcpEvent, onFcpRequest]
    split
    · refine (submit_inv h.registers (.response handle rcodeComplete [])).bind ?_
      rintro _ rfl
      have hput : FcpRunning (s.putSub (.response handle rcodeComplete [])) :=
        ⟨h.registers.putSub _, h.phase, h.connected, h.command, h.range⟩
      split
      · exact hput
      · exact storeFcpReply_running hput m p
    · exact h
  | busReset _ _ _ => exact raiseBusReset_inv h.registers
  | sent _ _ => exact h
  | phyReceived _ => exact h
  | other => exact h

theorem completeFcp_inv {s : State} (h : FcpRunning s) : State.Inv (completeFcp s) := by
  unfold completeFcp
  split
  · exact finish_inv h.registers _ _ _ _
  · next hd => exact h.inv (by simpa only [fcpDone, Bool.and_eq_true] using hd)

theorem pollFcp_inv {s : State} (h : State.Inv s) (hp : s.phase = .fcpWait) : State.Inv (pollFcp s) := by
  rw [pollFcp_eq]
  exact h.resume (by rw [hp]; rfl) (fun _ hu => raise_inv hu (by simp) _) fun e u hu hpu =>
    (onFcpEvent_inv e (hu.fcpRunning (hpu.trans hp))).bind fun _ => completeFcp_inv

/-- Registers 2 to 7 mark bits 2 to 7 only (45_remote_phy_regs.md R393). -/
theorem markReceived_low {mask : BitVec 8} (h : mask &&& 3 = 0) {r : Nat} (hr : 2 ≤ r) :
    markReceived mask r &&& 3 = 0 := by
  have hbit : (1#8 <<< r) &&& 3 = 0 := by
    by_cases h8 : r < 8
    · interval_cases r <;> rfl
    · rw [BitVec.shiftLeft_eq_zero (by omega)]; rfl
  unfold markReceived
  rw [BitVec.and_comm, BitVec.and_or_distrib_left, BitVec.and_comm, h, BitVec.and_comm, hbit]
  rfl

theorem onScanReply_running {s : State} (w : Word) (h : ScanRunning s) : ScanRunning (onScanReply w s) := by
  unfold onScanReply
  split
  · next hw =>
    obtain ⟨_, hreg⟩ := hw
    exact ⟨{ h.registers with rxMaskLegal := markReceived_low h.registers.rxMaskLegal hreg }, h.phase, h.connected,
      h.command, h.armed, h.predicate⟩
  · exact h

theorem onScanEvent_inv {s : State} (e : Event) (h : ScanRunning s) :
    (onScanEvent e s).Sat ScanRunning State.Inv := by
  cases e with
  | phyReceived w => exact onScanReply_running w h
  | sent status _ =>
    simp only [onScanEvent]
    split
    · exact h
    · exact raise_inv h.registers (by simp) _
  | busReset _ _ _ => exact raiseBusReset_inv h.registers
  | asyncResponse _ _ _ _ => exact h
  | asyncRequest _ _ _ _ _ => exact h
  | other => exact h

theorem completeScan_inv {s : State} (h : ScanRunning s) : State.Inv (completeScan s) := by
  unfold completeScan
  split
  · exact finish_inv h.registers _ _ _ _
  · next hd => exact h.inv (by simpa only [scanDone, beq_iff_eq] using hd)

theorem pollScan_inv {s : State} (h : State.Inv s) (hp : s.phase = .scanWait) : State.Inv (pollScan s) := by
  rw [pollScan_eq]
  exact h.resume (by rw [hp]; rfl) (fun _ hu => raiseReporting_inv hu (by simp) _ _) fun e u hu hpu =>
    (onScanEvent_inv e (hu.scanRunning (hpu.trans hp))).bind fun _ => completeScan_inv

/-! ## The step -/

/-- An answer in FAULTED leaves all but RES_OUT. -/
theorem answerFaulted_inv {s : State} (h : State.Inv s) (opc : BitVec 4) (rest : List Word)
    (hp : s.phase = .faulted) : State.Inv (answerFaulted opc (s.setCmdIn rest)) := by
  refine RegistersLegal.inv { h.registers with } ?_
  simp only [PhaseLegal, answerFaulted, emit_phase, setCmdIn_phase, hp]
  exact ⟨h.faultedFatal hp, h.faultedGeneration hp⟩

theorem acceptStep_inv {s t : State} (h : State.Inv s) (hw : s.phase.waiting = false) (hs : step s = .next t) :
    State.Inv t := by
  rcases acceptStep_outcome hw hs with ⟨_, rfl⟩ | ⟨d, rest, _, ⟨hp, rfl⟩ | ⟨hp, hr⟩⟩
  · exact h
  · exact answerFaulted_inv h _ rest hp
  · obtain ⟨t', ht', hinv⟩ := runRecord_inv d (s := s.setCmdIn rest) { h.registers with } (by simp [hp])
    cases ht'.symm.trans hr
    exact hinv

/-- Settles O58, by the phase: one poll of each wait phase, or the taking of a record. -/
theorem stepKeepsInv : Obligations.StepKeepsInv := by
  intro s t h hs
  cases hp : s.phase with
  | phyWait =>
    cases (step_phyWait hp).symm.trans hs
    exact pollPhy_inv h hp
  | asyncWait =>
    cases (step_asyncWait hp).symm.trans hs
    exact pollAsync_inv h hp
  | fcpWait =>
    cases (step_fcpWait hp).symm.trans hs
    exact pollFcp_inv h hp
  | scanWait =>
    cases (step_scanWait hp).symm.trans hs
    exact pollScan_inv h hp
  | idle | faulted => exact acceptStep_inv h (by rw [hp]; rfl) hs
  | reserved5 => exact absurd hp h.phaseLegal.1
  | reserved6 => exact absurd hp h.phaseLegal.2

end Sys2Proof.Machine
end

section
/-! PROOFS of the family 30_encoding.md: the decoder reads every encoded record back (O1), and the records the spec writes
out (O4). -/

namespace Sys2Proof

open Sys2Proof.Machine

/-- A whole record at the head of a stream is decoded by itself; the words after it stay. -/
theorem decode_record {h : Word} {ops : List Word} (hl : operandCount h = ops.length) (rest : List Word) :
    decode (h :: (ops ++ rest)) = some (decodeRecord h ops, rest) := by
  simp only [decode, frame_record hl]

/-- The family `Framing`, put together: an encoded instruction is a header and the operand words it announces. -/
theorem encode_framed (i : Instr) : Laws.Framing.Statement i := by
  cases i with
  | connect => exact Laws.Framing.connect
  | sendPhy d0 d1 mask bits => exact Laws.Framing.sendPhy d0 d1 mask bits
  | sendPhySym q mask bits => exact Laws.Framing.sendPhySym q mask bits
  | asyncRead o len => exact Laws.Framing.asyncRead o len
  | asyncWrite o b => exact Laws.Framing.asyncWrite o b
  | asyncLockMaskSwap o a b => exact Laws.Framing.asyncLockMaskSwap o a b
  | asyncLockCompareSwap o a b => exact Laws.Framing.asyncLockCompareSwap o a b
  | asyncLockFetchAdd o a b => exact Laws.Framing.asyncLockFetchAdd o a b
  | asyncLockLittleAdd o a b => exact Laws.Framing.asyncLockLittleAdd o a b
  | asyncLockBoundedAdd o a b => exact Laws.Framing.asyncLockBoundedAdd o a b
  | asyncLockWrapAdd o a b => exact Laws.Framing.asyncLockWrapAdd o a b
  | encodeLockMaskSwap a b => exact Laws.Framing.encodeLockMaskSwap a b
  | encodeLockCompareSwap a b => exact Laws.Framing.encodeLockCompareSwap a b
  | encodeLockFetchAdd a b => exact Laws.Framing.encodeLockFetchAdd a b
  | encodeLockLittleAdd a b => exact Laws.Framing.encodeLockLittleAdd a b
  | encodeLockBoundedAdd a b => exact Laws.Framing.encodeLockBoundedAdd a b
  | encodeLockWrapAdd a b => exact Laws.Framing.encodeLockWrapAdd a b
  | decodeSelfId n ws => exact Laws.Framing.decodeSelfId n ws
  | encodeSelfId n f0 f1 => exact Laws.Framing.encodeSelfId n f0 f1
  | scanPhyRegs phy => exact Laws.Framing.scanPhyRegs phy
  | sendFcp b => exact Laws.Framing.sendFcp b
  | busResetReqLong => exact Laws.Framing.busResetReqLong
  | busResetReqShort => exact Laws.Framing.busResetReqShort
  | illegalC r => exact Laws.Framing.illegalC r
  | illegalD r => exact Laws.Framing.illegalD r
  | illegalE r => exact Laws.Framing.illegalE r
  | illegalF r => exact Laws.Framing.illegalF r

/-- Below opcode 0xC a record without reserved bits is read by the opcode map (R124, R466). -/
theorem decodeRecord_checked {h : Word} {ops : List Word} (ho : (headerOpc h).toNat < 0xC)
    (hr : reservedBitsSet h ops = false) : decodeRecord h ops = decodeChecked h ops := by
  unfold decodeRecord
  split
  · omega
  · omega
  · omega
  · omega
  · simp [hr]

theorem lockKindOf_lockSub (k : LockKind) : lockKindOf (lockSub k) = some k := by cases k <;> rfl

theorem unpackBytes_lengthArg {b : List Byte} (h : payloadFits b = true) :
    unpackBytes (lengthArg b).toNat (packBytes b) = b := by
  rw [lengthArg_toNat h]
  simpa using unpackBytes_packBytes b []

theorem decodeRecord_asyncLock (k : LockKind) (o : Offset) {a b : List Byte} (h : operandsFit a b = true) :
    decodeRecord (header 0x5 (lockSub k) (widthsArg a b)) (offsetWords o ++ packBytes (a ++ b))
      = .instr (asyncLockInstr k o a b) := by
  obtain ⟨h1, h2⟩ := lockOps_packed 0x5#4 (lockSub k) h
  rw [decodeRecord_checked (by simp) (by simp [reservedBitsSet, offsetWords, operand, offHi_reserved])]
  simp [decodeChecked, lockKindOf_lockSub, offsetWords, operand, offsetOf_offsetWords, h1, h2]

theorem decodeRecord_encodeLock (k : LockKind) {a b : List Byte} (h : operandsFit a b = true) :
    decodeRecord (header 0x6 (lockSub k) (widthsArg a b)) (packBytes (a ++ b)) = .instr (encodeLockInstr k a b) := by
  obtain ⟨h1, h2⟩ := lockOps_packed 0x6#4 (lockSub k) h
  rw [decodeRecord_checked (by simp) (by simp [reservedBitsSet])]
  simp [decodeChecked, lockKindOf_lockSub, h1, h2]

/-- The 10 bits of `ARG` above a phy id are 0 (R124). -/
theorem phyArg_high (phy : BitVec 6) : (phy.setWidth 16).extractLsb' 6 10 = 0 := by
  apply BitVec.eq_of_getLsbD_eq
  intro i hi
  simp

theorem phyArg_low (phy : BitVec 6) : (phy.setWidth 16).extractLsb' 0 6 = phy := by
  apply BitVec.eq_of_getLsbD_eq
  intro i hi
  simp [hi, show i < 16 by omega]

/-- The record of a well-formed instruction is read as that instruction, row by row of the opcode map (R124). -/
theorem decodeRecord_encode {i : Instr} (hw : i.wellFormed = true) {h : Word} {ops : List Word}
    (he : encode i = h :: ops) : decodeRecord h ops = .instr i := by
  cases i with
  | connect | sendPhy | sendPhySym | busResetReqLong | busResetReqShort => cases he; rfl
  | asyncRead o len =>
    cases he
    rw [decodeRecord_checked (by simp) (by simp [reservedBitsSet, offsetWords, operand, offHi_reserved])]
    simp [decodeChecked, offsetWords, operand, offsetOf_offsetWords]
  | asyncWrite o b =>
    cases he
    rw [decodeRecord_checked (by simp) (by simp [reservedBitsSet, offsetWords, operand, offHi_reserved])]
    simp [decodeChecked, offsetWords, operand, offsetOf_offsetWords, unpackBytes_lengthArg hw]
  | asyncLockMaskSwap o a b => cases he; exact decodeRecord_asyncLock .maskSwap o hw
  | asyncLockCompareSwap o a b => cases he; exact decodeRecord_asyncLock .compareSwap o hw
  | asyncLockFetchAdd o a b => cases he; exact decodeRecord_asyncLock .fetchAdd o hw
  | asyncLockLittleAdd o a b => cases he; exact decodeRecord_asyncLock .littleAdd o hw
  | asyncLockBoundedAdd o a b => cases he; exact decodeRecord_asyncLock .boundedAdd o hw
  | asyncLockWrapAdd o a b => cases he; exact decodeRecord_asyncLock .wrapAdd o hw
  | encodeLockMaskSwap a b => cases he; exact decodeRecord_encodeLock .maskSwap hw
  | encodeLockCompareSwap a b => cases he; exact decodeRecord_encodeLock .compareSwap hw
  | encodeLockFetchAdd a b => cases he; exact decodeRecord_encodeLock .fetchAdd hw
  | encodeLockLittleAdd a b => cases he; exact decodeRecord_encodeLock .littleAdd hw
  | encodeLockBoundedAdd a b => cases he; exact decodeRecord_encodeLock .boundedAdd hw
  | encodeLockWrapAdd a b => cases he; exact decodeRecord_encodeLock .wrapAdd hw
  | decodeSelfId | encodeSelfId =>
    cases he
    rw [decodeRecord_checked (by simp) (by simp [reservedBitsSet])]
    simp [decodeChecked, operand]
  | scanPhyRegs phy =>
    cases he
    rw [decodeRecord_checked (by simp) (by simp [reservedBitsSet, field_header_arg, phyArg_high])]
    simp [decodeChecked, field_header_arg, phyArg_low]
  | sendFcp b =>
    cases he
    rw [decodeRecord_checked (by simp) (by simp [reservedBitsSet])]
    simp [decodeChecked, unpackBytes_lengthArg hw]
  | illegalC r | illegalD r | illegalE r | illegalF r =>
    cases he
    simp [decodeRecord, Laws.Framing.opc_place, field_place_same, field_place_disjoint]

/-- Settles O1, from the framing of the encoded record and what its header and operand words are read as. -/
theorem decodeInvertsEncode : Obligations.DecodeInvertsEncode := by
  intro i rest hw
  obtain ⟨h, ops, he, hl⟩ := encode_framed i hw
  rw [he, List.cons_append, decode_record hl, decodeRecord_encode hw he]

/-- Settles O4, by running the decoder on the eight records. -/
theorem specWordsDecode : Obligations.SpecWordsDecode := by
  unfold Obligations.SpecWordsDecode
  decide

end Sys2Proof
end

section
/-! PROOFS of the family 30_encoding.md: the inversion of the decoder, `Reads`, and from it that the decoder gives
well-formed instructions only (O3) and drops no bit of a record without byte payload (O2). -/

namespace Sys2Proof

open Sys2Proof.Machine Sys2Proof.Claims

/-! ## The inversion of the decoder -/

/-- What the decoder can read from a whole record: the rows of the opcode map (R124), all but the illegal opcodes behind
CheckHeader (R466). -/
inductive Reads (h : Word) (ops : List Word) : Instr → Prop
  | connect (ho : headerOpc h = 0x0) (hr : reservedBitsSet h ops = false) : Reads h ops .connect
  | sendPhy (ho : headerOpc h = 0x1) (hr : reservedBitsSet h ops = false) :
      Reads h ops (.sendPhy (operand ops 0) (operand ops 1) (operand ops 2) (operand ops 3))
  | sendPhySym (ho : headerOpc h = 0x2) (hr : reservedBitsSet h ops = false) :
      Reads h ops (.sendPhySym (operand ops 0) (operand ops 1) (operand ops 2))
  | asyncRead (ho : headerOpc h = 0x3) (hr : reservedBitsSet h ops = false) :
      Reads h ops (.asyncRead (offsetOf (operand ops 0) (operand ops 1)) (headerArg h))
  | asyncWrite (ho : headerOpc h = 0x4) (hr : reservedBitsSet h ops = false) :
      Reads h ops (.asyncWrite (offsetOf (operand ops 0) (operand ops 1))
        (unpackBytes (headerArg h).toNat (ops.drop 2)))
  | asyncLock (k : LockKind) (ho : headerOpc h = 0x5) (hr : reservedBitsSet h ops = false) :
      Reads h ops (asyncLockInstr k (offsetOf (operand ops 0) (operand ops 1))
        (lockOp1 h (ops.drop 2)) (lockOp2 h (ops.drop 2)))
  | encodeLock (k : LockKind) (ho : headerOpc h = 0x6) (hr : reservedBitsSet h ops = false) :
      Reads h ops (encodeLockInstr k (lockOp1 h ops) (lockOp2 h ops))
  | decodeSelfId (ho : headerOpc h = 0x7) (hr : reservedBitsSet h ops = false) :
      Reads h ops (.decodeSelfId (headerArg h) ops)
  | encodeSelfId (ho : headerOpc h = 0x8) (hr : reservedBitsSet h ops = false) :
      Reads h ops (.encodeSelfId (headerArg h) (operand ops 0) (operand ops 1))
  | scanPhyRegs (ho : headerOpc h = 0x9) (hr : reservedBitsSet h ops = false) :
      Reads h ops (.scanPhyRegs (field h 0 6))
  | sendFcp (ho : headerOpc h = 0xA) (hr : reservedBitsSet h ops = false) :
      Reads h ops (.sendFcp (unpackBytes (headerArg h).toNat ops))
  | busResetReqLong (ho : headerOpc h = 0xB) (hs : headerSub h = 0) (hr : reservedBitsSet h ops = false) :
      Reads h ops .busResetReqLong
  | busResetReqShort (ho : headerOpc h = 0xB) (hs : headerSub h = 1) (hr : reservedBitsSet h ops = false) :
      Reads h ops .busResetReqShort
  | illegalC (ho : headerOpc h = 0xC) : Reads h ops (.illegalC (field h 0 28))
  | illegalD (ho : headerOpc h = 0xD) : Reads h ops (.illegalD (field h 0 28))
  | illegalE (ho : headerOpc h = 0xE) : Reads h ops (.illegalE (field h 0 28))
  | illegalF (ho : headerOpc h = 0xF) : Reads h ops (.illegalF (field h 0 28))

/-- The opcode map on a record that CheckHeader has passed. -/
theorem decodeChecked_reads {h : Word} {ops : List Word} {i : Instr} (ho : (headerOpc h).toNat < 0xC)
    (hr : reservedBitsSet h ops = false) (hd : decodeChecked h ops = .instr i) : Reads h ops i := by
  unfold decodeChecked at hd
  split at hd
  · next hc => cases hd; exact .connect (BitVec.eq_of_toNat_eq hc) hr
  · next hc => cases hd; exact .sendPhy (BitVec.eq_of_toNat_eq hc) hr
  · next hc => cases hd; exact .sendPhySym (BitVec.eq_of_toNat_eq hc) hr
  · next hc => cases hd; exact .asyncRead (BitVec.eq_of_toNat_eq hc) hr
  · next hc => cases hd; exact .asyncWrite (BitVec.eq_of_toNat_eq hc) hr
  · next hc =>
    split at hd
    · next k _ => cases hd; exact .asyncLock k (BitVec.eq_of_toNat_eq hc) hr
    · cases hd
  · next hc =>
    split at hd
    · next k _ => cases hd; exact .encodeLock k (BitVec.eq_of_toNat_eq hc) hr
    · cases hd
  · next hc => cases hd; exact .decodeSelfId (BitVec.eq_of_toNat_eq hc) hr
  · next hc => cases hd; exact .encodeSelfId (BitVec.eq_of_toNat_eq hc) hr
  · next hc => cases hd; exact .scanPhyRegs (BitVec.eq_of_toNat_eq hc) hr
  · next hc => cases hd; exact .sendFcp (BitVec.eq_of_toNat_eq hc) hr
  · have hc : (headerOpc h).toNat = 0xB := by simp only [imp_false] at *; omega
    split at hd
    · next hs => cases hd; exact .busResetReqLong (BitVec.eq_of_toNat_eq hc) (BitVec.eq_of_toNat_eq hs) hr
    · next hs => cases hd; exact .busResetReqShort (BitVec.eq_of_toNat_eq hc) (BitVec.eq_of_toNat_eq hs) hr
    · cases hd

/-- The inversion of the decoder on one whole record. -/
theorem decodeRecord_reads {h : Word} {ops : List Word} {i : Instr} (hd : decodeRecord h ops = .instr i) :
    Reads h ops i := by
  unfold decodeRecord at hd
  split at hd
  · next hc => cases hd; exact .illegalC (BitVec.eq_of_toNat_eq hc)
  · next hc => cases hd; exact .illegalD (BitVec.eq_of_toNat_eq hc)
  · next hc => cases hd; exact .illegalE (BitVec.eq_of_toNat_eq hc)
  · next hc => cases hd; exact .illegalF (BitVec.eq_of_toNat_eq hc)
  · split at hd
    · cases hd
    · next hr => exact decodeChecked_reads (by simp only [imp_false] at *; omega) (Bool.eq_false_iff.2 hr) hd

/-- Whatever instruction a word list begins with, it was read from one whole record. -/
theorem decode_reads {ws rest : List Word} {i : Instr} (hd : decode ws = some (.instr i, rest)) :
    ∃ h ops, ws = h :: (ops ++ rest) ∧ ops.length = operandCount h ∧ Reads h ops i := by
  obtain ⟨h, ops, hws, hl, hi⟩ := decode_eq_some hd
  exact ⟨h, ops, hws, hl, decodeRecord_reads hi.symm⟩

/-! ## Every instruction read is well formed -/

theorem unpackBytes_fits (n : BitVec 16) (ws : List Word) : payloadFits (unpackBytes n.toNat ws) = true := by
  have := unpackBytes_length n.toNat ws
  simp only [payloadFits, decide_eq_true_eq]
  omega

theorem lockOps_fit (h : Word) (ws : List Word) : operandsFit (lockOp1 h ws) (lockOp2 h ws) = true := by
  have h1 : headerW1 h < 2 ^ 8 := (field h 8 8).isLt
  have h2 : headerW2 h < 2 ^ 8 := (field h 0 8).isLt
  simp only [operandsFit, lockOp1, lockOp2, List.length_drop, unpackBytes_length, Bool.and_eq_true,
    decide_eq_true_eq]
  omega

theorem asyncLockInstr_wellFormed (k : LockKind) (o : Offset) (a b : List Byte) :
    (asyncLockInstr k o a b).wellFormed = operandsFit a b := by cases k <;> rfl

theorem encodeLockInstr_wellFormed (k : LockKind) (a b : List Byte) :
    (encodeLockInstr k a b).wellFormed = operandsFit a b := by cases k <;> rfl

/-- Read lengths are bounded by the width of the header field they come from. -/
theorem Reads.wellFormed {h : Word} {ops : List Word} {i : Instr} (hl : ops.length = operandCount h)
    (hi : Reads h ops i) : i.wellFormed = true := by
  cases hi with
  | asyncWrite | sendFcp => exact unpackBytes_fits _ _
  | asyncLock k => exact (asyncLockInstr_wellFormed k _ _ _).trans (lockOps_fit h _)
  | encodeLock k => exact (encodeLockInstr_wellFormed k _ _).trans (lockOps_fit h _)
  | decodeSelfId ho =>
    have hn : operandCount h = selfIdWordCount (headerArg h) := by simp [operandCount, ho]
    simp [Instr.wellFormed, hl, hn]
  | connect | sendPhy | sendPhySym | asyncRead | encodeSelfId | scanPhyRegs | busResetReqLong | busResetReqShort
  | illegalC | illegalD | illegalE | illegalF => rfl

/-- Settles O3, from the inversion of the decoder. -/
theorem decodedInstrIsWellFormed : Obligations.DecodedInstrIsWellFormed := by
  intro ws i rest hd
  obtain ⟨h, ops, _, hl, hi⟩ := decode_reads hd
  exact hi.wellFormed hl

/-! ## The record is made of what was read from it -/

/-! CheckHeader leaves 0 in every reserved field (R466). -/

theorem rsv_eq_zero {h : Word} {ops : List Word} (hr : reservedBitsSet h ops = false) : headerRsv h = 0 := by
  simp only [reservedBitsSet, Bool.or_eq_false_iff, bne_eq_false_iff_eq] at hr
  obtain ⟨⟨⟨⟨hrsv, _⟩, _⟩, _⟩, _⟩ := hr
  exact hrsv

theorem sub_eq_zero {h : Word} {ops : List Word} {o : BitVec 4} (hr : reservedBitsSet h ops = false)
    (ho : headerOpc h = o) (hn : (o.toNat == 0x5 || o.toNat == 0x6 || o.toNat == 0xB) = false) : headerSub h = 0 := by
  simp only [reservedBitsSet, ho, hn, Bool.or_eq_false_iff, Bool.not_false, Bool.and_true,
    bne_eq_false_iff_eq] at hr
  obtain ⟨⟨⟨⟨_, hsub⟩, _⟩, _⟩, _⟩ := hr
  exact hsub

theorem arg_eq_zero {h : Word} {ops : List Word} {o : BitVec 4} (hr : reservedBitsSet h ops = false)
    (ho : headerOpc h = o) (hn : (o.toNat == 0x0 || o.toNat == 0x1 || o.toNat == 0x2 || o.toNat == 0xB) = true) :
    headerArg h = 0 := by
  simp only [reservedBitsSet, ho, hn, Bool.or_eq_false_iff, Bool.and_true, bne_eq_false_iff_eq] at hr
  obtain ⟨⟨⟨_, harg⟩, _⟩, _⟩ := hr
  exact harg

theorem phyHigh_eq_zero {h : Word} {ops : List Word} (hr : reservedBitsSet h ops = false)
    (ho : headerOpc h = 0x9) : field h 6 10 = 0 := by
  simp only [reservedBitsSet, ho, Bool.or_eq_false_iff] at hr
  obtain ⟨⟨_, hphy⟩, _⟩ := hr
  simpa using hphy

theorem offHigh_eq_zero {h : Word} {ops : List Word} (hr : reservedBitsSet h ops = false)
    (ho : headerOpc h = 0x3) : field (operand ops 0) 16 16 = 0 := by
  simp only [reservedBitsSet, ho, Bool.or_eq_false_iff] at hr
  obtain ⟨_, hoff⟩ := hr
  simpa using hoff

/-- The header of a command without `SUB` codes is its opcode and its `ARG`. -/
theorem header_of_arg {h : Word} {ops : List Word} {o : BitVec 4} (hr : reservedBitsSet h ops = false)
    (ho : headerOpc h = o) (hs : (o.toNat == 0x5 || o.toNat == 0x6 || o.toNat == 0xB) = false) :
    header o 0 (headerArg h) = h := by
  rw [← sub_eq_zero hr ho hs, ← ho]
  exact header_of_fields (rsv_eq_zero hr)

/-- The header of a command without `ARG` is its opcode and its `SUB`. -/
theorem header_of_sub {h : Word} {ops : List Word} {o c : BitVec 4} (hr : reservedBitsSet h ops = false)
    (ho : headerOpc h = o) (hs : headerSub h = c)
    (ha : (o.toNat == 0x0 || o.toNat == 0x1 || o.toNat == 0x2 || o.toNat == 0xB) = true) : header o c 0 = h := by
  rw [← arg_eq_zero hr ho ha, ← ho, ← hs]
  exact header_of_fields (rsv_eq_zero hr)

/-- Operand words, taken one by one. -/
theorem operands_eq {ops : List Word} {n : Nat} (hl : ops.length = n) : (List.range n).map (operand ops) = ops := by
  subst hl
  exact List.ext_getElem (by simp) fun i _ hi => by simp [operand, hi]

/-- SCAN_PHY_REGS's `ARG` is its phy id (R124). -/
theorem phyArg_of_clear {h : Word} (hc : field h 6 10 = 0) : (field h 0 6).setWidth 16 = headerArg h := by
  apply BitVec.eq_of_getLsbD_eq
  intro i hi
  have := congrArg (fun v => v.getLsbD (i - 6)) hc
  simp only [getLsbD_field, BitVec.getLsbD_setWidth, headerArg] at this ⊢
  by_cases h6 : i < 6
  · simp [hi, h6]
  · simpa [hi, h6, show i - 6 < 10 by omega, show 6 + (i - 6) = i by omega, -BitVec.getLsbD_eq_getElem] using this.symm

/-- An illegal opcode's header is the opcode and the 28 bits below it (R464). -/
theorem illegal_of_opc {h : Word} {c : BitVec 4} (ho : headerOpc h = c) :
    place c 28 ||| place (field h 0 28) 0 = h := by
  subst ho
  apply BitVec.eq_of_getLsbD_eq
  intro i hi
  simp only [headerOpc, BitVec.getLsbD_or, getLsbD_place, getLsbD_field]
  by_cases h28 : 28 ≤ i
  · simp [hi, h28, show i - 28 < 4 by omega, show 28 + (i - 28) = i by omega, show ¬ i < 28 by omega,
      -BitVec.getLsbD_eq_getElem]
  · simp [hi, h28, show i < 28 by omega, -BitVec.getLsbD_eq_getElem]

theorem noPayload_asyncLockInstr (k : LockKind) (o : Offset) (a b : List Byte) :
    noPayload (asyncLockInstr k o a b) = false := by cases k <;> rfl

theorem noPayload_encodeLockInstr (k : LockKind) (a b : List Byte) :
    noPayload (encodeLockInstr k a b) = false := by cases k <;> rfl

/-- A record from its header and from its operand words, taken one by one. -/
theorem record_eq {h h' : Word} {ops : List Word} (n : Nat) (hh : h' = h) (hl : ops.length = n) :
    h' :: (List.range n).map (operand ops) = h :: ops := by rw [hh, operands_eq hl]

/-- Encoding an instruction without byte payload gives back the record it was read from. -/
theorem Reads.encode_eq {h : Word} {ops : List Word} {i : Instr} (hl : ops.length = operandCount h)
    (hi : Reads h ops i) (hn : noPayload i = true) : encode i = h :: ops := by
  cases hi with
  | connect ho hr =>
    exact record_eq 0 (header_of_sub hr ho (sub_eq_zero hr ho rfl) rfl) (by simp [hl, operandCount, ho])
  | sendPhy ho hr =>
    exact record_eq 4 (header_of_sub hr ho (sub_eq_zero hr ho rfl) rfl) (by simp [hl, operandCount, ho])
  | sendPhySym ho hr =>
    exact record_eq 3 (header_of_sub hr ho (sub_eq_zero hr ho rfl) rfl) (by simp [hl, operandCount, ho])
  | asyncRead ho hr =>
    rw [encode, offsetWords_offsetOf (offHigh_eq_zero hr ho)]
    exact record_eq 2 (header_of_arg hr ho rfl) (by simp [hl, operandCount, ho])
  | decodeSelfId ho hr => rw [encode, header_of_arg hr ho rfl]
  | encodeSelfId ho hr => exact record_eq 2 (header_of_arg hr ho rfl) (by simp [hl, operandCount, ho])
  | scanPhyRegs ho hr =>
    rw [encode, phyArg_of_clear (phyHigh_eq_zero hr ho)]
    exact record_eq 0 (header_of_arg hr ho rfl) (by simp [hl, operandCount, ho])
  | busResetReqLong ho hs hr | busResetReqShort ho hs hr =>
    exact record_eq 0 (header_of_sub hr ho hs rfl) (by simp [hl, operandCount, ho])
  | illegalC ho | illegalD ho | illegalE ho | illegalF ho =>
    exact record_eq 0 (illegal_of_opc ho) (by simp [hl, operandCount, ho])
  | asyncWrite => cases hn
  | sendFcp => cases hn
  | asyncLock k => cases (noPayload_asyncLockInstr k _ _ _).symm.trans hn
  | encodeLock k => cases (noPayload_encodeLockInstr k _ _).symm.trans hn

/-- Settles O2, from the inversion of the decoder: CheckHeader lets no bit through that the instruction does not hold. -/
theorem encodeInvertsDecode : Obligations.EncodeInvertsDecode := by
  intro ws i rest hd hn
  obtain ⟨h, ops, hws, hl, hi⟩ := decode_reads hd
  rw [hi.encode_eq hl hn, hws, List.cons_append]

end Sys2Proof
end

section
/-! PROOFS of the family 30_encoding.md: a whole record is consumed at its full length (O5), and the layout of result
records (O10). -/

namespace Sys2Proof.Machine

/-! ## Command records on CMD_IN -/

/-- Running a record takes nothing further from CMD_IN. -/
theorem runRecord_cmdIn (d : Decoded) {s t : State} (h : runRecord d s = .next t) : t.cmdIn = s.cmdIn := by
  by_cases hp : s.phase = .faulted
  · cases (runRecord_faulted d hp).symm.trans h
    rfl
  by_cases hd : d = .instr .connect
  · subst hd
    cases (accept_ready hp).symm.trans h
    obtain ⟨ws, c, ht, _⟩ := connectDevice_outcome (s.setCmdOp 0x0)
    rw [ht]
    rfl
  · obtain ⟨t', ht, hout⟩ := runRecord_outcome d hp hd
    cases ht.symm.trans h
    obtain ⟨u, hu, hrep⟩ := hout.elim Waits.reports Ended.reports
    exact hrep.inputs.1.trans hu.cmdIn

/-- In IDLE and FAULTED a step takes the whole record at the head of CMD_IN, instruction or not (R120, R125). -/
theorem step_takes_record {s : State} {h : Word} {ops rest : List Word} (hp : s.phase = .idle ∨ s.phase = .faulted)
    (hc : s.cmdIn = h :: (ops ++ rest)) (hl : ops.length = operandCount h) :
    ∃ t, step s = .next t ∧ t.cmdIn = rest := by
  have hd : decode s.cmdIn = some (decodeRecord h ops, rest) := by
    rw [hc, decode_record hl.symm]
  obtain ⟨t, ht⟩ := runRecord_answers (decodeRecord h ops) (s.setCmdIn rest)
  exact ⟨t, ((step_of_accepting hp).trans (acceptStep_of_decode hd)).trans ht, runRecord_cmdIn _ ht⟩

/-- Settles O5: the table by the opcode, the consumption by `step_takes_record`. -/
theorem recordFramingNeverLost : Obligations.RecordFramingNeverLost := by
  refine ⟨fun h => ?_, fun s h ops rest hp hc hl => step_takes_record hp hc hl⟩
  simp only [operandCount, headerOpc, headerArg, headerW1, headerW2, wordsFor, selfIdWordCount]
  split
  case h_10 h1 h2 h3 h4 h5 h6 h7 h8 hA =>
    simp only [if_neg h1, if_neg h2, if_neg h3, if_neg h4, if_neg h5, if_neg h6, if_neg h7, if_neg h8, if_neg hA]
  all_goals
    next ho => simp only [ho]; rfl

/-! ## Result records -/

/-- Byte `i` of a word list lies in word `i div 4`, the first byte most significant. -/
theorem bytesOf_getD : ∀ (ws : List Word) (i : Nat),
    (bytesOf ws).getD i 0 = field (ws.getD (i / 4) 0) (24 - 8 * (i % 4)) 8
  | [], i => by simp [bytesOf, field]
  | w :: ws, 0 => rfl
  | w :: ws, 1 => rfl
  | w :: ws, 2 => rfl
  | w :: ws, 3 => rfl
  | w :: ws, i + 4 => by
    have ih := bytesOf_getD ws i
    rw [show (i + 4) / 4 = i / 4 + 1 by omega, show (i + 4) % 4 = i % 4 by omega]
    exact ih

/-- The padding of packed bytes is 0 (R122). -/
theorem bytesOf_packBytes_pad : ∀ bs : List Byte, ∃ k, bytesOf (packBytes bs) = bs ++ List.replicate k 0
  | [] => ⟨0, rfl⟩
  | [a] => ⟨3, by simp [packBytes, bytesOf, wordBytes_beWord, List.replicate]⟩
  | [a, b] => ⟨2, by simp [packBytes, bytesOf, wordBytes_beWord, List.replicate]⟩
  | [a, b, c] => ⟨1, by simp [packBytes, bytesOf, wordBytes_beWord]⟩
  | a :: b :: c :: d :: rest => by
    obtain ⟨k, h⟩ := bytesOf_packBytes_pad rest
    exact ⟨k, by simp [packBytes, bytesOf, wordBytes_beWord, h]⟩

/-- Byte `i` of packed bytes, padding included, read from its word. -/
theorem packBytes_byte (bs : List Byte) (i : Nat) :
    field ((packBytes bs).getD (i / 4) 0) (24 - 8 * (i % 4)) 8 = bs.getD i 0 := by
  obtain ⟨k, h⟩ := bytesOf_packBytes_pad bs
  rw [← bytesOf_getD, h]
  by_cases hi : i < bs.length
  · exact List.getD_append _ _ _ _ hi
  · rw [List.getD_append_right _ _ _ _ (Nat.le_of_not_lt hi), List.getD_eq_getElem?_getD,
      List.getElem?_getD_replicate_default_eq, List.getD_eq_default _ _ (Nat.le_of_not_lt hi)]

/-- Settles O10, field by field of RW0, then the data words by `packBytes_byte`. -/
theorem resultRecordLayout : Obligations.ResultRecordLayout := by
  intro status opc rcode info data hlen
  refine ⟨_, _, rfl, ?_, ?_, ?_, ?_, ?_, packBytes_length data, ?_, fun i _ => packBytes_byte data i⟩
  · exact resultWords_status status opc rcode info data
  · simp [field_place_same, field_place_disjoint]
  · simp [field_place_disjoint]
  · simp [field_place_same, field_place_disjoint]
  · simpa [field_place_same, field_place_disjoint] using hlen
  · simpa using unpackBytes_packBytes data []

end Sys2Proof.Machine
end

section
/-! PROOFS of the family 40_event_stream.md: the checks of one poll (O30), and what every wait phase makes of a poll
that ends the command (O31) and of a BUS_RESET record (O32). -/

namespace Sys2Proof.Machine

open Sys2Proof.Claims

/-! ## A raised fault, in the words of the statements -/

theorem resultWords_plain (status opc : BitVec 4) (info : Word) :
    resultWords status opc 0 info [] = plainResult status opc info := by
  simp [resultWords, plainResult, place, packBytes]

theorem raise_eq_faultedWith (k : FaultKind) (info : Word) (s : State) :
    raise k info s = faultedWith k.code info (phaseAfterFault k) s := by
  rw [raise_eq, resultWords_plain]
  rfl

/-! ## The typed event of a record, by its type (R150, R205) -/

theorem decodeEvent_busReset {r : EventRecord} (h : r.type = 0x00) :
    decodeEvent r = .busReset r.generation r.rootNode r.localNode := by
  simp [decodeEvent, h, typeBusReset]

theorem decodeEvent_sent {r : EventRecord} (h : r.type = 0x08) : decodeEvent r = .sent r.status r.ticks := by
  simp [decodeEvent, h, typeBusReset, typeResponse, typeRequest, typeRequest2, typeSent]

theorem decodeEvent_received {r : EventRecord} (h : r.type = 0x09) : decodeEvent r = .phyReceived r.data := by
  simp [decodeEvent, h, typeBusReset, typeResponse, typeRequest, typeRequest2, typeSent, typeReceived]

theorem decodeEvent_unknown {r : EventRecord} (h : unknownType r.type) : decodeEvent r = .other := by
  simp only [unknownType, BitVec.ofNat_eq_ofNat] at h
  obtain ⟨h0, h1, h2, h6, h8, h9⟩ := h
  simp [decodeEvent, typeBusReset, typeResponse, typeRequest, typeRequest2, typeSent, typeReceived, h0, h1, h2, h6, h8,
    h9]

/-- A payload whose length the 16-bit `length` field holds is read whole. -/
theorem payloadBytes_of_fits {r : EventRecord} (h : r.payload.length < 2 ^ 16) : r.payloadBytes = r.payload := by
  refine List.take_of_length_le ?_
  rw [EventRecord.payloadLength, BitVec.toNat_ofNat, Nat.mod_eq_of_lt h]

theorem decodeEvent_response {r : EventRecord} (hl : r.payload.length < 2 ^ 16) (h : r.type = 0x01) :
    decodeEvent r = .asyncResponse r.rcode (BitVec.ofNat 16 r.payload.length) r.payload r.handle := by
  simp [decodeEvent, h, payloadBytes_of_fits hl, EventRecord.payloadLength, typeBusReset, typeResponse]

theorem decodeEvent_request {r : EventRecord} (hl : r.payload.length < 2 ^ 16) (h : r.type = 0x02 ∨ r.type = 0x06) :
    decodeEvent r = .asyncRequest r.handle r.tcode r.offset (BitVec.ofNat 16 r.payload.length) r.payload := by
  rcases h with h | h <;>
    simp [decodeEvent, h, payloadBytes_of_fits hl, EventRecord.payloadLength, typeBusReset, typeResponse, typeRequest,
      typeRequest2]

/-! ## The checks on a record, in their order (R219) -/

/-- The length checks, as one condition on the record: the common length, then the length of its type. -/
theorem validRecord_iff (p : Params) (r : EventRecord) :
    validRecord p r ↔ p.minEventLen ≤ r.len ∧ typedTooShort p r = false := by
  unfold validRecord typedTooShort minTypedLen typeBusReset typeResponse typeRequest typeRequest2 typeSent typeReceived
  refine and_congr_right fun _ => ?_
  simp only [BitVec.ofNat_eq_ofNat]
  split_ifs with h0 h1 h2 h6 h8 h9 <;> simp [*]

theorem nextEvent_of_timeout {s : State} (h : pollAnswer s = .timeout) : nextEvent s = .timeout s.takePoll := by
  simp only [nextEvent, h]

theorem nextEvent_of_readFailed {s : State} (h : pollAnswer s = .readFailed) :
    nextEvent s = .ended (faultedWith 2 5 .faulted s.takePoll) := by
  simp only [nextEvent, h, raise_eq_faultedWith]
  rfl

theorem nextEvent_of_short {s : State} {r : EventRecord} (h : pollAnswer s = .event r)
    (hl : r.len < s.params.minEventLen) : nextEvent s = .ended (faultedWith 4 1 .faulted s.takePoll) := by
  simp only [nextEvent, h, validateEvent, takePoll_params, if_pos hl, raise_eq_faultedWith]
  rfl

theorem nextEvent_of_typedShort {s : State} {r : EventRecord} (h : pollAnswer s = .event r)
    (hl : s.params.minEventLen ≤ r.len) (hv : ¬ validRecord s.params r) :
    nextEvent s = .ended (faultedWith 4 2 .faulted s.takePoll) := by
  have ht : typedTooShort s.params r = true := by
    rw [validRecord_iff] at hv
    simpa [hl] using hv
  simp only [nextEvent, h, validateEvent, takePoll_params, if_neg (Nat.not_lt.mpr hl), if_pos ht, raise_eq_faultedWith]
  rfl

theorem nextEvent_of_valid {s : State} {r : EventRecord} (h : pollAnswer s = .event r) (hv : validRecord s.params r) :
    nextEvent s = .event (decodeEvent r) (onBusReset (decodeEvent r) s.takePoll) := by
  obtain ⟨hl, ht⟩ := (validRecord_iff _ _).1 hv
  simp only [nextEvent, h, validateEvent, takePoll_params, if_neg (Nat.not_lt.mpr hl), ht, Bool.false_eq_true, if_false]

/-- Settles O30: one lemma for each answer and each check; a valid record by its type. -/
theorem pollChecksInOrder : Obligations.PollChecksInOrder := by
  refine fun s => ⟨fun _ _ => pollAnswer_listed, nextEvent_of_timeout, nextEvent_of_readFailed, fun r hr =>
    ⟨nextEvent_of_short hr, nextEvent_of_typedShort hr, fun hv => ?_⟩⟩
  rw [nextEvent_of_valid hr hv]
  refine ⟨fun h => ?_, fun h => ?_, fun h => ?_, fun hl h => ?_, fun hl h => ?_, fun h => ?_⟩
  · rw [decodeEvent_busReset h]; rfl
  · rw [decodeEvent_sent h]; rfl
  · rw [decodeEvent_received h]; rfl
  · rw [decodeEvent_response hl h]; rfl
  · rw [decodeEvent_request hl h]; rfl
  · rw [decodeEvent_unknown h]; rfl

/-! ## The four wait phases -/

/-- A fault that the poll itself raises ends the step in every wait phase, before the phase's handler. -/
theorem step_of_nextEvent_ended {s u : State} (hw : s.phase.waiting = true) (h : nextEvent s = .ended u) :
    step s = .next u := by
  cases hp : s.phase with
  | phyWait => rw [step_phyWait hp, pollPhy_eq, h]; rfl
  | asyncWait => rw [step_asyncWait hp, pollAsync_eq, h]; rfl
  | fcpWait => rw [step_fcpWait hp, pollFcp_eq, h]; rfl
  | scanWait => rw [step_scanWait hp, pollScan_eq, h]; rfl
  | idle | reserved5 | reserved6 | faulted => simp [hp, Phase.waiting] at hw

/-- Settles O31: the three failing polls, each the end of the step. -/
theorem shortReadIsFatal : Obligations.ShortReadIsFatal := fun _ hw =>
  ⟨fun h => step_of_nextEvent_ended hw (nextEvent_of_readFailed h), fun _ hr =>
    ⟨fun hl => step_of_nextEvent_ended hw (nextEvent_of_short hr hl),
      fun hl hv => step_of_nextEvent_ended hw (nextEvent_of_typedShort hr hl hv)⟩⟩

/-- A BusReset event is the BusReset fault in every wait phase but ASYNC_WAIT, which discards it (R504). -/
theorem step_of_busReset {s u : State} {g : Word} {root loc : BitVec 6} (hw : s.phase.waiting = true)
    (h : nextEvent s = .event (.busReset g root loc) u) :
    step s = .next (if s.phase = .asyncWait then u else raise .busReset u.ctx.gen u) := by
  cases hp : s.phase with
  | phyWait => rw [step_phyWait hp, pollPhy_eq, h]; rfl
  | asyncWait => rw [step_asyncWait hp, pollAsync_eq, h]; rfl
  | fcpWait => rw [step_fcpWait hp, pollFcp_eq, h]; rfl
  | scanWait => rw [step_scanWait hp, pollScan_eq, h]; rfl
  | idle | reserved5 | reserved6 | faulted => simp [hp, Phase.waiting] at hw

/-- Settles O32: the update is part of the poll (`nextEvent_of_valid`); no phase's answer to the event takes it back. -/
theorem busResetUpdatesGeneration : Obligations.BusResetUpdatesGeneration := by
  intro s r hw hr hv ht
  have he := nextEvent_of_valid hr hv
  rw [decodeEvent_busReset ht] at he
  refine ⟨_, step_of_busReset hw he, ?_, fun hp => ?_, fun hp => ?_⟩
  · split <;> rfl
  · rw [if_pos hp]
    exact hp
  · rw [if_neg hp]
    rfl

end Sys2Proof.Machine
end

section
/-! PROOFS of the family 40_event_stream.md: the generation that submissions carry (O60), and that a refused submission
is the last one of its step (O16). -/

namespace Sys2Proof.Machine

open Sys2Proof.Claims

/-! ## Every submission carries the generation cached at the end of its step -/

/-- What a step has put on SUB_OUT is stamped with the generation it leaves. -/
def SubmitsCurrent (s t : State) : Prop :=
  ∃ ss, t.subOut = s.subOut ++ ss ∧ ∀ x ∈ ss, stampedWith t.ctx.gen x

theorem Progress.submitsCurrent {s u t : State} (h : Progress s u) (ht : Reports u t) : SubmitsCurrent s t := by
  obtain ⟨ss, hsub, hstamp⟩ := h.subOut
  obtain ⟨rs, ht⟩ := ht
  rw [ht]
  exact ⟨ss, hsub, fun x hx => h.gen.symm ▸ hstamp x hx⟩

/-- A poll updates the generation before its handler submits; a command never changes it; CONNECT, which sets it,
submits GET_INFO only. -/
theorem step_submitsCurrent {s t : State} (h : step s = .next t) : SubmitsCurrent s t := by
  cases hw : s.phase.waiting with
  | true =>
    obtain ⟨u, ⟨_, _, _, hu⟩, ht⟩ := poll_reports hw h
    exact hu.submitsCurrent ht
  | false =>
    rcases acceptStep_reports hw h with ⟨_, _, u, hu, ht⟩ | ⟨_, _, _, _, ht, _⟩
    · exact hu.submitsCurrent ht
    · rw [ht]
      exact ⟨[.getInfo], rfl, by simp [stampedWith]⟩

/-- Settles O60. -/
theorem submissionsCarryCurrentGeneration : Obligations.SubmissionsCarryCurrentGeneration := by
  intro s t ss h hsub
  obtain ⟨ss', hsub', hstamp⟩ := step_submitsCurrent h
  cases List.append_cancel_left (hsub.symm.trans hsub')
  exact ⟨fun _ _ _ hx => hstamp _ hx, fun _ _ _ _ _ _ hx => hstamp _ hx⟩

/-! ## Accepted and refused submissions of one command -/

/-- From `s` the command has got to `t` with submissions that ENV accepted, each taking one answer, and no result
yet. -/
def Sent (s t : State) : Prop :=
  ∃ subs, t.subOut = s.subOut ++ subs ∧ t.submitAnswers = s.submitAnswers.drop subs.length ∧
    (∀ k < subs.length, answerTo s k ≠ .rejected) ∧ t.resOut = s.resOut

/-- From `s` the command has got to `t` with its next submission refused: the fault of R217 is raised at once. -/
def Refused (s t : State) : Prop :=
  ∃ u x, Sent s u ∧ submitAnswer u = .rejected ∧ t = raise .ioFailure infoSubmitRejected (u.putSub x)

/-- How a command that submits nothing after a refusal ends: every submission was accepted, or the last one was
refused. -/
def Settled (s t : State) : Prop := (∃ u, Sent s u ∧ Reports u t) ∨ Refused s t

/-- An update that leaves both ports and the answers alone. -/
theorem Sent.of {s t : State} (hsub : t.subOut = s.subOut) (hans : t.submitAnswers = s.submitAnswers)
    (hres : t.resOut = s.resOut) : Sent s t :=
  ⟨[], by rw [hsub, List.append_nil], hans, by simp, hres⟩

theorem Sent.refl (s : State) : Sent s s := Sent.of rfl rfl rfl

/-- After `n` submissions their answers are taken: the next ones are those that came after them. -/
theorem answerTo_of_sent {s t : State} {subs : List Submission} (hsub : t.subOut = s.subOut ++ subs)
    (hans : t.submitAnswers = s.submitAnswers.drop subs.length) (k : Nat) :
    answerTo t k = answerTo s (subs.length + k) := by
  unfold answerTo
  rw [hans, hsub, List.drop_drop, List.length_append, Nat.add_assoc]

theorem Sent.trans {s t u : State} (h : Sent s t) (h' : Sent t u) : Sent s u := by
  obtain ⟨subs, hsub, hans, hok, hres⟩ := h
  obtain ⟨subs', hsub', hans', hok', hres'⟩ := h'
  refine ⟨subs ++ subs', by rw [hsub', hsub, List.append_assoc], ?_, fun k hk => ?_, hres'.trans hres⟩
  · rw [hans', hans, List.drop_drop, List.length_append]
  · rw [List.length_append] at hk
    by_cases hlt : k < subs.length
    · exact hok k hlt
    · have := hok' (k - subs.length) (by omega)
      rwa [answerTo_of_sent hsub hans, Nat.add_sub_cancel' (by omega)] at this

/-- An accepted submission. -/
theorem Sent.putSub {s : State} (x : Submission) {op : Nat} (h : submitAnswer s = .ok op) : Sent s (s.putSub x) := by
  refine ⟨[x], rfl, by rw [putSub_submitAnswers, List.length_singleton, List.drop_one], fun k hk => ?_, rfl⟩
  obtain rfl : k = 0 := by simpa using hk
  simp [answerTo_zero, h]

theorem Settled.after {s t u : State} (h : Sent s t) (h' : Settled t u) : Settled s u := by
  rcases h' with ⟨v, hv, hu⟩ | ⟨v, x, hv, hu⟩
  · exact .inl ⟨v, h.trans hv, hu⟩
  · exact .inr ⟨v, x, h.trans hv, hu⟩

/-! ## What every line of a command keeps -/

/-- Where a flow from `s` goes on, all its submissions were accepted; where it has ended, at most the last one was
refused. -/
def Careful (s : State) (f : Flow) : Prop := f.Sat (Sent s) (Settled s)

theorem Careful.after {s t : State} {f : Flow} (h : Sent s t) (hf : Careful t f) : Careful s f := by
  cases f with
  | go u => exact h.trans hf
  | ended u => exact Settled.after h hf

theorem Careful.andThen {s : State} {f : Flow} {k : State → Flow} (hf : Careful s f) (hk : ∀ t, Careful t (k t)) :
    Careful s (f.andThen k) :=
  hf.bind fun t ht => (hk t).after ht

/-- A line that writes registers only. -/
theorem Careful.go {s t : State} (hsub : t.subOut = s.subOut) (hans : t.submitAnswers = s.submitAnswers)
    (hres : t.resOut = s.resOut) : Careful s (.go t) :=
  Sent.of hsub hans hres

theorem Careful.ite {s : State} {f g : Flow} {c : Prop} [Decidable c] (hf : Careful s f) (hg : Careful s g) :
    Careful s (if c then f else g) := by
  split
  · exact hf
  · exact hg

theorem Careful.state {s : State} {f : Flow} (h : Careful s f) : Settled s f.state := by
  cases f with
  | go t => exact .inl ⟨t, h, Reports.refl t⟩
  | ended t => exact h

theorem finish_reports (status : BitVec 4) (rcode : BitVec 5) (info : Word) (data : List Byte) (s : State) :
    Reports s (finish status rcode info data s) := ⟨_, rfl⟩

theorem raiseReporting_reports (k : FaultKind) (info resultInfo : Word) (data : List Byte) (s : State) :
    Reports s (raiseReporting k info resultInfo data s) := ⟨_, rfl⟩

theorem raise_reports (k : FaultKind) (info : Word) (s : State) : Reports s (raise k info s) :=
  raiseReporting_reports k info info [] s

theorem finish_careful (status : BitVec 4) (rcode : BitVec 5) (info : Word) (data : List Byte) (s : State) :
    Careful s (.ended (finish status rcode info data s)) :=
  .inl ⟨s, Sent.refl s, finish_reports status rcode info data s⟩

theorem raise_careful (k : FaultKind) (info : Word) (s : State) : Careful s (.ended (raise k info s)) :=
  .inl ⟨s, Sent.refl s, raise_reports k info s⟩

/-- The one place where an answer is read: an accepted submission goes on, a refused one ends the command (R217). -/
theorem submit_careful (x : Submission) (s : State) : Careful s (submit x s) := by
  cases h : submitAnswer s with
  | ok op =>
    rw [submit_ok h]
    exact Sent.putSub x h
  | rejected =>
    rw [submit_rejected h]
    exact .inr ⟨s, x, Sent.refl s, h, rfl⟩

theorem requireConnected_careful (s : State) : Careful s (requireConnected s) :=
  .ite (Sent.refl s) (raise_careful _ _ s)

theorem requireLength_careful (n : Nat) (s : State) : Careful s (requireLength n s) :=
  .ite (raise_careful _ _ s) (Sent.refl s)

theorem requireLockOperands_careful (k : LockKind) (a b : List Byte) (s : State) :
    Careful s (requireLockOperands k a b s) := by
  unfold requireLockOperands
  split
  · exact raise_careful _ _ s
  · exact Sent.refl s

theorem requireChainCount_careful (n : BitVec 16) (s : State) : Careful s (requireChainCount n s) :=
  .ite (Sent.refl s) (raise_careful _ _ s)

theorem requireCarriedFields_careful (n : Nat) (f0 f1 : Word) (s : State) :
    Careful s (requireCarriedFields n f0 f1 s) :=
  .ite (Sent.refl s) (raise_careful _ _ s)

theorem submitAsync_careful (s : State) : Careful s (submitAsync s) :=
  ((submit_careful _ _).after (Sent.of (t := stampRequest s) rfl rfl rfl)).andThen fun _ => .go rfl rfl rfl

theorem armPhyRx_careful (s : State) : Careful s (armPhyRx s) :=
  .ite (Sent.refl s) ((submit_careful _ s).andThen fun _ => .go rfl rfl rfl)

theorem submitScan_careful (phy : BitVec 6) : ∀ (regs : List Nat) (s : State), Careful s (submitScan phy regs s)
  | [], s => Sent.refl s
  | _ :: regs, s => (submit_careful _ s).andThen (submitScan_careful phy regs)

theorem fcpAllocate_careful (s : State) : Careful s (fcpAllocate s) :=
  .ite (Sent.refl s) ((submit_careful _ s).andThen fun _ => .go rfl rfl rfl)

/-! ## The commands -/

theorem sendAsync_careful (s : State) : Careful s (sendAsync s) :=
  ((submitAsync_careful _).after (Sent.of (t := clearSubmits s) rfl rfl rfl)).andThen fun _ => .go rfl rfl rfl

theorem armForResponse_careful (mask : Word) (s : State) : Careful s (armForResponse mask s) :=
  .ite (Sent.refl s) (armPhyRx_careful s)

theorem sendPhyPacket_careful (d0 d1 mask bits : Word) (s : State) : Careful s (sendPhyPacket d0 d1 mask bits s) :=
  (requireConnected_careful s).andThen fun t =>
    ((armForResponse_careful mask _).after (Sent.of (t := phyStart mask bits t) rfl rfl rfl)).andThen fun u =>
      (submit_careful _ u).andThen fun _ => .go rfl rfl rfl

theorem asyncReadBody_careful (o : Offset) (len : BitVec 16) (s : State) :
    Careful s ((requireConnected s).andThen fun s => (requireLength len.toNat s).andThen fun s =>
      sendAsync (loadReadRequest (selectReadTcode o len) o len s)) :=
  (requireConnected_careful s).andThen fun t => (requireLength_careful _ t).andThen fun u =>
    (sendAsync_careful _).after (Sent.of (s := u) rfl rfl rfl)

theorem asyncWriteBody_careful (o : Offset) (b : List Byte) (s : State) :
    Careful s ((requireConnected s).andThen fun s => (requireLength b.length s).andThen fun s =>
      sendAsync (loadRequest (selectWriteTcode o (BitVec.ofNat 16 b.length)) o b s)) :=
  (requireConnected_careful s).andThen fun t => (requireLength_careful _ t).andThen fun u =>
    (sendAsync_careful _).after (Sent.of (s := u) rfl rfl rfl)

theorem asyncLockOf_careful (k : LockKind) (o : Offset) (a b : List Byte) (s : State) :
    Careful s (asyncLockOf k o a b s) :=
  (requireConnected_careful s).andThen fun t => (requireLockOperands_careful k a b t).andThen fun u =>
    (sendAsync_careful _).after (Sent.of (s := u) rfl rfl rfl)

theorem encodeLockOf_careful (k : LockKind) (a b : List Byte) (s : State) : Careful s (encodeLockOf k a b s) :=
  (requireLockOperands_careful k a b s).andThen fun t => finish_careful _ _ _ _ t

theorem decodeChain_careful (n : BitVec 16) (ws : List Word) (s : State) : Careful s (decodeChain n ws s) :=
  (requireChainCount_careful n s).andThen fun t => finish_careful _ _ _ _ t

theorem encodeChain_careful (n : BitVec 16) (f0 f1 : Word) (s : State) : Careful s (encodeChain n f0 f1 s) :=
  (requireChainCount_careful n s).andThen fun t => (requireCarriedFields_careful _ f0 f1 t).andThen fun u =>
    finish_careful _ _ _ _ u

theorem startScan_careful (phy : BitVec 6) (s : State) : Careful s (startScan phy s) :=
  (requireConnected_careful s).andThen fun t =>
    ((armPhyRx_careful _).after (Sent.of (t := scanStart phy t) rfl rfl rfl)).andThen fun u =>
      (submitScan_careful phy _ u).andThen fun _ => .go rfl rfl rfl

theorem sendFcpCommand_careful (b : List Byte) (s : State) : Careful s (sendFcpCommand b s) :=
  (requireConnected_careful s).andThen fun t => (requireLength_careful _ t).andThen fun u =>
    ((fcpAllocate_careful _).after (Sent.of (t := fcpStart u) rfl rfl rfl)).andThen fun v =>
      ((submitAsync_careful _).after (Sent.of (t := clearSubmits (loadFcpWrite b v)) rfl rfl rfl)).andThen fun _ =>
        .go rfl rfl rfl

theorem requestBusReset_careful (kind : BitVec 4) (s : State) : Careful s (requestBusReset kind s) :=
  (requireConnected_careful s).andThen fun t => (submit_careful _ t).andThen fun u => finish_careful _ _ _ _ u

/-- The answer to a bad lock or reset kind: the connection guard, then the fault. -/
theorem guardedRejection_careful (k : FaultKind) (info : Word) (s : State) :
    Careful s ((requireConnected s).andThen fun t => .ended (raise k info t)) :=
  (requireConnected_careful s).andThen (raise_careful k info)

/-- Dispatch: in FAULTED only the stored fault is given; otherwise the command runs. -/
theorem accept_settled {opc : BitVec 4} {body : State → Flow} {s t : State} (hb : ∀ u, Careful u (body u))
    (h : accept opc body s = .next t) : Settled s t := by
  by_cases hp : s.phase = .faulted
  · cases (accept_faulted hp).symm.trans h
    exact .inl ⟨s, Sent.refl s, _, rfl⟩
  · cases (accept_ready hp).symm.trans h
    exact Settled.after (t := s.setCmdOp opc) (Sent.of rfl rfl rfl) (hb _).state

/-- Every record but CONNECT, instruction or not. -/
theorem runRecord_settled (d : Decoded) {s t : State} (hd : d ≠ .instr .connect) (h : runRecord d s = .next t) :
    Settled s t := by
  cases d with
  | instr i =>
    cases i with
    | connect => exact absurd rfl hd
    | sendPhy d0 d1 m b => exact accept_settled (sendPhyPacket_careful d0 d1 m b) h
    | sendPhySym q m b => exact accept_settled (sendPhyPacket_careful q (complementWord q) m b) h
    | asyncRead o len => exact accept_settled (asyncReadBody_careful o len) h
    | asyncWrite o b => exact accept_settled (asyncWriteBody_careful o b) h
    | asyncLockMaskSwap o a b | asyncLockCompareSwap o a b | asyncLockFetchAdd o a b | asyncLockLittleAdd o a b
    | asyncLockBoundedAdd o a b | asyncLockWrapAdd o a b => exact accept_settled (asyncLockOf_careful _ o a b) h
    | encodeLockMaskSwap a b | encodeLockCompareSwap a b | encodeLockFetchAdd a b | encodeLockLittleAdd a b
    | encodeLockBoundedAdd a b | encodeLockWrapAdd a b => exact accept_settled (encodeLockOf_careful _ a b) h
    | decodeSelfId n ws => exact accept_settled (decodeChain_careful n ws) h
    | encodeSelfId n f0 f1 => exact accept_settled (encodeChain_careful n f0 f1) h
    | scanPhyRegs phy => exact accept_settled (startScan_careful phy) h
    | sendFcp b => exact accept_settled (sendFcpCommand_careful b) h
    | busResetReqLong | busResetReqShort => exact accept_settled (requestBusReset_careful _) h
    | illegalC _ | illegalD _ | illegalE _ | illegalF _ => exact accept_settled (raise_careful _ _) h
  | reject r =>
    cases r with
    | reservedBits _ | badEncodeLockOp => exact accept_settled (raise_careful _ _) h
    | badAsyncLockOp | badResetKind => exact accept_settled (guardedRejection_careful _ _) h

/-! ## The polls -/

theorem onPhyReceived_sent (w : Word) (s : State) : Sent s (onPhyReceived w s) := by
  unfold onPhyReceived
  split
  · split <;> exact Sent.of rfl rfl rfl
  · exact Sent.refl s

theorem onPhyEvent_careful (e : Event) (s : State) : Careful s (onPhyEvent e s) := by
  cases e with
  | sent _ _ => exact .ite (.go rfl rfl rfl) (raise_careful _ _ s)
  | phyReceived w => exact onPhyReceived_sent w s
  | busReset _ _ _ => exact raise_careful _ _ s
  | asyncResponse _ _ _ _ | asyncRequest _ _ _ _ _ | other => exact Sent.refl s

theorem onAsyncEvent_careful (e : Event) (s : State) : Careful s (onAsyncEvent e s) := by
  cases e with
  | asyncResponse rc n p _ =>
    have hstore : Sent s (storeResponse rc n p s) := Sent.of rfl rfl rfl
    exact .ite (.ite ((finish_careful _ _ _ _ _).after hstore) (submitAsync_careful s))
      ((finish_careful _ _ _ _ _).after hstore)
  | busReset _ _ _ | asyncRequest _ _ _ _ _ | sent _ _ | phyReceived _ | other => exact Sent.refl s

theorem storeFirstReply_sent (m : BitVec 16) (p : List Byte) (s : State) :
    Sent s (if s.flags.fcpReqDone then s else storeFcpReply m p s) := by
  split
  · exact Sent.refl s
  · exact Sent.of rfl rfl rfl

theorem onFcpEvent_careful (e : Event) (s : State) : Careful s (onFcpEvent e s) := by
  cases e with
  | asyncResponse rc _ _ _ =>
    have hstore : Sent s (storeFcpAck rc s) := Sent.of rfl rfl rfl
    exact .ite (Sent.refl s) (.ite (.go rfl rfl rfl) ((finish_careful _ _ _ _ _).after hstore))
  | asyncRequest _ _ _ m p => exact .ite ((submit_careful _ s).andThen (storeFirstReply_sent m p)) (Sent.refl s)
  | busReset _ _ _ => exact raise_careful _ _ s
  | sent _ _ | phyReceived _ | other => exact Sent.refl s

theorem onScanReply_sent (w : Word) (s : State) : Sent s (onScanReply w s) := by
  unfold onScanReply
  split
  · exact Sent.of rfl rfl rfl
  · exact Sent.refl s

theorem onScanEvent_careful (e : Event) (s : State) : Careful s (onScanEvent e s) := by
  cases e with
  | phyReceived w => exact onScanReply_sent w s
  | sent _ _ => exact .ite (Sent.refl s) (raise_careful _ _ s)
  | busReset _ _ _ => exact raise_careful _ _ s
  | asyncResponse _ _ _ _ | asyncRequest _ _ _ _ _ | other => exact Sent.refl s

/-- A handler and the completion test after it. -/
theorem completed_settled {s : State} {f : Flow} (hf : Careful s f) {c : State → State} (hc : ∀ t, Reports t (c t)) :
    Settled s (f.andThen fun t => .go (c t)).state := by
  cases f with
  | go t => exact .inl ⟨t, hf, hc t⟩
  | ended t => exact hf

/-- The completion test gives the command's result, or goes on. -/
theorem finishIf_reports {c : Prop} [Decidable c] {s t : State} (h : Reports s t) : Reports s (if c then t else s) := by
  split
  · exact h
  · exact Reports.refl s

theorem completePhy_reports (s : State) : Reports s (completePhy s) := finishIf_reports (finish_reports _ _ _ _ s)

theorem completeFcp_reports (s : State) : Reports s (completeFcp s) := finishIf_reports (finish_reports _ _ _ _ s)

theorem completeScan_reports (s : State) : Reports s (completeScan s) := finishIf_reports (finish_reports _ _ _ _ s)

/-- A validated event comes with at most the bus-reset update: nothing is submitted before the handler. -/
theorem nextEvent_sent {s u : State} {e : Event} (he : nextEvent s = .event e u) : Sent s u := by
  obtain ⟨g, loc, root, hu⟩ := onBusReset_eq e s.takePoll
  rw [nextEvent_state he, hu]
  exact Sent.of rfl rfl rfl

/-- The poll itself submits nothing, so its step is settled where the handler is. -/
theorem resume_settled (s : State) {onTimeout : State → State} {onEvent : Event → State → Flow}
    (ht : ∀ u, Reports u (onTimeout u)) (hev : ∀ e u, Settled u (onEvent e u).state) :
    Settled s ((nextEvent s).resume onTimeout onEvent) := by
  have hpoll : Sent s s.takePoll := Sent.of rfl rfl rfl
  cases he : nextEvent s with
  | ended u =>
    refine .inl ⟨_, hpoll, ?_⟩
    rcases nextEvent_ended he with rfl | rfl | rfl <;> exact raise_reports _ _ _
  | timeout u =>
    obtain ⟨_, rfl⟩ := nextEvent_timeout he
    exact .inl ⟨_, hpoll, ht _⟩
  | event e u => exact Settled.after (nextEvent_sent he) (hev e u)

theorem poll_settled {s t : State} (hw : s.phase.waiting = true) (h : step s = .next t) : Settled s t := by
  cases hp : s.phase with
  | phyWait =>
    cases (step_phyWait hp).symm.trans h
    rw [pollPhy_eq]
    exact resume_settled s (raise_reports _ _) fun e u => completed_settled (onPhyEvent_careful e u) completePhy_reports
  | asyncWait =>
    cases (step_asyncWait hp).symm.trans h
    rw [pollAsync_eq]
    exact resume_settled s (raise_reports _ _) fun e u => (onAsyncEvent_careful e u).state
  | fcpWait =>
    cases (step_fcpWait hp).symm.trans h
    rw [pollFcp_eq]
    exact resume_settled s (raise_reports _ _) fun e u => completed_settled (onFcpEvent_careful e u) completeFcp_reports
  | scanWait =>
    cases (step_scanWait hp).symm.trans h
    rw [pollScan_eq]
    exact resume_settled s (fun _ => raiseReporting_reports _ _ _ _ _) fun e u =>
      completed_settled (onScanEvent_careful e u) completeScan_reports
  | idle | reserved5 | reserved6 | faulted => simp [hp, Phase.waiting] at hw

/-! ## The step -/

/-- A step that takes no CONNECT makes accepted submissions, and at most one refused submission as its last act. -/
theorem step_settled {s t : State} (h : step s = .next t) : t.subOut = s.subOut ++ [.getInfo] ∨ Settled s t := by
  cases hw : s.phase.waiting with
  | true => exact .inr (poll_settled hw h)
  | false =>
    rcases acceptStep_outcome hw h with ⟨_, rfl⟩ | ⟨d, rest, _, ⟨_, rfl⟩ | ⟨hp, hr⟩⟩
    · exact .inr (.inl ⟨t, Sent.refl t, Reports.refl t⟩)
    · exact .inr (.inl ⟨s.setCmdIn rest, Sent.of rfl rfl rfl, _, rfl⟩)
    · by_cases hd : d = .instr .connect
      · subst hd
        have hp' : (s.setCmdIn rest).phase ≠ .faulted := by simp [hp]
        cases (accept_ready hp').symm.trans hr
        obtain ⟨ws, c, ht, _⟩ := connectDevice_outcome ((s.setCmdIn rest).setCmdOp 0x0)
        exact .inl (by rw [ht]; rfl)
      · exact .inr (Settled.after (t := s.setCmdIn rest) (Sent.of rfl rfl rfl) (runRecord_settled d hd hr))

/-- Settles O16: by `step_settled` the refused submission cannot be among the accepted ones, so it is the last one, and
the fault was raised there. -/
theorem refusedSubmissionIsFatal : Obligations.RefusedSubmissionIsFatal := by
  intro s t k hk h hlen
  rcases step_settled h with hget | ⟨u, ⟨subs, hsub, _, hok, _⟩, rs, ht⟩ |
    ⟨u, x, ⟨subs, hsub, hans, hok, hres⟩, _, rfl⟩
  · exact .inl hget
  · rw [ht, hsub, List.length_append] at hlen
    exact absurd hk (hok k (by omega))
  · have hle : subs.length ≤ k := Nat.le_of_not_lt fun hlt => hok k hlt hk
    have hsubs : (raise .ioFailure infoSubmitRejected (u.putSub x)).subOut = s.subOut ++ (subs ++ [x]) := by
      rw [← List.append_assoc, ← hsub]
      rfl
    rw [hsubs, List.length_append, List.length_append, List.length_singleton] at hlen
    obtain rfl : k = subs.length := by omega
    refine .inr ⟨⟨_, List.length_append, hsubs⟩, ?_, rfl, rfl, ?_⟩
    · change u.submitAnswers.tail = _
      rw [hans, List.tail_drop]
    · rw [raise_eq, resultWords_plain, putSub_resOut, hres]
      rfl

end Sys2Proof.Machine
end

section
/-! PROOFS of the family 41_phy_transaction.md: how SEND_PHY and SEND_PHY_SYM start (O23), and what one poll of PHY_WAIT
makes of its event (O25 to O28). -/

namespace Sys2Proof.Machine

open Sys2Proof.Claims

/-! ## The commands up to PHY_WAIT -/

/-- The symmetric packet's second word, bit by bit (R251). -/
theorem complementWord_eq_xor (d0 : Word) : complementWord d0 = d0 ^^^ 0xFFFFFFFF := BitVec.xor_allOnes.symm

/-- Nothing is armed where no response is expected or reception is on (R241). -/
theorem armForResponse_of_armed {mask : Word} {s : State} (h : mask = 0 ∨ s.ctx.phyRxEn = true) :
    armForResponse mask s = .go s := by
  rcases h with h | h <;> simp [armForResponse, armPhyRx, h]

/-- Reception is turned on where a response is expected and it is off (R241). -/
theorem armForResponse_of_unarmed {mask : Word} {s : State} {op : Nat} (hm : mask ≠ 0) (hrx : s.ctx.phyRxEn = false)
    (ha : submitAnswer s = .ok op) :
    armForResponse mask s = .go ((s.putSub .enablePhyRx).setCtx { s.ctx with phyRxEn := true }) := by
  rw [armForResponse, if_neg hm]
  simp [armPhyRx, hrx, submit_ok ha]

theorem submitPhy_ok {s : State} {op : Nat} (h : submitAnswer s = .ok op) (d0 d1 : Word) :
    submitPhy d0 d1 s = .go (s.putSub (.phy d0 d1 s.ctx.gen)) := submit_ok h

/-- A PHY transaction whose reception is settled at `u` and whose packet is accepted waits. -/
theorem sendPhyPacket_waits {s u : State} {mask bits : Word} {op : Nat} (hg : s.ctx.genValid = true)
    (hu : armForResponse mask (phyStart mask bits s) = .go u) (ha : submitAnswer u = .ok op) (d0 d1 : Word) :
    sendPhyPacket d0 d1 mask bits s = .go ((u.putSub (.phy d0 d1 u.ctx.gen)).setPhase .phyWait) := by
  simp only [sendPhyPacket, requireConnected_of s hg, hu, submitPhy_ok ha, go_andThen]

/-- A transaction started under either opcode, where nothing has to be armed: one submission. -/
theorem accept_sendPhyPacket_armed {s : State} {mask : Word} {op : Nat} (hp : s.phase ≠ .faulted)
    (hg : s.ctx.genValid = true) (hrx : mask = 0 ∨ s.ctx.phyRxEn = true) (ha : submitAnswer s = .ok op)
    (opc : BitVec 4) (d0 d1 bits : Word) :
    accept opc (sendPhyPacket d0 d1 mask bits) s = .next { phyStarted opc mask bits s with
      phase := .phyWait, subOut := s.subOut ++ [.phy d0 d1 s.ctx.gen], submitAnswers := s.submitAnswers.tail } := by
  have harm := armForResponse_of_armed (s := phyStart mask bits (s.setCmdOp opc)) hrx
  rw [accept_ready hp, sendPhyPacket_waits (s := s.setCmdOp opc) hg harm ha]
  rfl

/-- A transaction started under either opcode, reception armed first: two submissions. -/
theorem accept_sendPhyPacket_arming {s : State} {mask : Word} {op op' : Nat} (hp : s.phase ≠ .faulted)
    (hg : s.ctx.genValid = true) (hm : mask ≠ 0) (hrx : s.ctx.phyRxEn = false) (ha : submitAnswer s = .ok op)
    (ha' : submitAnswer (s.putSub .enablePhyRx) = .ok op') (opc : BitVec 4) (d0 d1 bits : Word) :
    accept opc (sendPhyPacket d0 d1 mask bits) s = .next { phyStarted opc mask bits s with
      phase := .phyWait, ctx := { s.ctx with phyRxEn := true },
      subOut := s.subOut ++ [.enablePhyRx, .phy d0 d1 s.ctx.gen], submitAnswers := s.submitAnswers.tail.tail } := by
  have harm := armForResponse_of_unarmed (s := phyStart mask bits (s.setCmdOp opc)) hm hrx ha
  have hsub : s.subOut ++ [.enablePhyRx, .phy d0 d1 s.ctx.gen]
      = (s.subOut ++ [.enablePhyRx]) ++ [.phy d0 d1 s.ctx.gen] := by simp
  rw [accept_ready hp, sendPhyPacket_waits (s := s.setCmdOp opc) hg harm ha', hsub]
  rfl

/-- Settles O23: both commands are one transaction under their own opcode and second word. -/
theorem sendPhyStarts : Obligations.SendPhyStarts := by
  intro s d0 d1 mask bits hp hg
  rw [← complementWord_eq_xor]
  exact ⟨fun _ hrx ha =>
      ⟨accept_sendPhyPacket_armed hp hg hrx ha 0x1 d0 d1 bits,
        accept_sendPhyPacket_armed hp hg hrx ha 0x2 d0 (complementWord d0) bits⟩,
    fun _ _ hm hrx ha ha' =>
      ⟨accept_sendPhyPacket_arming hp hg hm hrx ha ha' 0x1 d0 d1 bits,
        accept_sendPhyPacket_arming hp hg hm hrx ha ha' 0x2 d0 (complementWord d0) bits⟩⟩

/-! ## The completion test -/

theorem finishPhy_eq_phyFinished (s : State) : finishPhy s = phyFinished s := by
  have hinfo : phyInfo s.chain.len s.flags = place s.chain.len 0 ||| (if s.flags.rttValid then 0x100 else 0) := by
    rw [phyInfo, BitVec.or_comm]
    cases s.flags.rttValid <;> rfl
  rw [finishPhy, finish_eq, hinfo]
  rfl

theorem completePhy_eq_phyFinishedIfDone (s : State) : completePhy s = phyFinishedIfDone s := by
  have hdone : phyDone s.flags = true ↔ s.flags.awaitSent = false ∧ s.flags.awaitResp = false := by simp [phyDone]
  simp only [completePhy, phyFinishedIfDone, hdone, finishPhy_eq_phyFinished]

/-- Nothing ends while one of the two signals is awaited (R250). -/
theorem completePhy_of_awaiting {s : State} (h : s.flags.awaitSent = true ∨ s.flags.awaitResp = true) :
    completePhy s = s := by
  rcases h with h | h <;> simp [completePhy, phyDone, h]

/-! ## One poll of PHY_WAIT -/

/-- Every event but a BusReset leaves the poll as it was taken. -/
theorem nextEvent_eq_polled {s u : State} {e : Event} (h : nextEvent s = .event e u)
    (hb : ∀ g root loc, e ≠ .busReset g root loc) : u = polled s := by
  rw [nextEvent_state h]
  cases e with
  | busReset g root loc => exact absurd rfl (hb g root loc)
  | sent _ _ | phyReceived _ | asyncResponse _ _ _ _ | asyncRequest _ _ _ _ _ | other => rfl

/-- A step of PHY_WAIT whose event lets the command go on to `t`: the completion test at `t`. -/
theorem step_phyWait_go {s u t : State} {e : Event} (hp : s.phase = .phyWait) (h : nextEvent s = .event e u)
    (he : onPhyEvent e u = .go t) : step s = .next (completePhy t) := by
  rw [step_phyWait hp, pollPhy_eq, h, Poll.resume, he]
  rfl

/-- A step of PHY_WAIT whose event ends the command at `t`. -/
theorem step_phyWait_ended {s u t : State} {e : Event} (hp : s.phase = .phyWait) (h : nextEvent s = .event e u)
    (he : onPhyEvent e u = .ended t) : step s = .next t := by
  rw [step_phyWait hp, pollPhy_eq, h, Poll.resume, he]
  rfl

/-- A step of PHY_WAIT that receives a PHY packet: `OnPhyReceived`, then the completion test (R240). -/
theorem step_phyReceived {s u : State} {w : Word} (hp : s.phase = .phyWait)
    (h : nextEvent s = .event (.phyReceived w) u) : step s = .next (completePhy (onPhyReceived w (polled s))) := by
  obtain rfl := nextEvent_eq_polled h nofun
  exact step_phyWait_go hp h rfl

/-- Settles O25, by the status. -/
theorem phySentEvent : Obligations.PhySentEvent := by
  refine fun s u status ticks hp h => ⟨fun hs => ?_, fun hs => ?_⟩
  · have he : onPhyEvent (.sent status ticks) u = .ended (raise .ioFailure infoSendFailed u) := if_neg hs
    rw [step_phyWait_ended hp h he, raise_eq_faultedWith]
    rfl
  · have he : onPhyEvent (.sent status ticks) u =
        .go ((u.setPhyRes { u.phyRes with rtt := ticks }).setFlags (flagsAfterSent u.flags)) := if_pos hs
    rw [step_phyWait_go hp h he, completePhy_eq_phyFinishedIfDone]
    rfl

/-! ## What a received word does (R244 to R246) -/

theorem onPhyReceived_discarded {s : State} {w : Word}
    (h : s.flags.awaitResp = false ∨ w &&& s.pending.mask ≠ s.pending.bits) : onPhyReceived w s = s := by
  rcases h with h | h <;> simp [onPhyReceived, matchesPending, h]

theorem onPhyReceived_selfId {s : State} {w : Word} (ha : s.flags.awaitResp = true)
    (hm : w &&& s.pending.mask = s.pending.bits) (hs : field w 30 2 = 0b10) :
    onPhyReceived w s = acceptSelfId w s := by
  simp [onPhyReceived, matchesPending, isSelfId, ha, hm, hs]

theorem onPhyReceived_final {s : State} {w : Word} (ha : s.flags.awaitResp = true)
    (hm : w &&& s.pending.mask = s.pending.bits) (hs : field w 30 2 ≠ 0b10) :
    onPhyReceived w s = acceptFinal w s := by
  have hs' : isSelfId w = false := beq_eq_false_iff_ne.mpr hs
  simp [onPhyReceived, matchesPending, ha, hm, hs']

/-- Settles O26: a discarded word leaves the signal awaited, so the completion test ends nothing. -/
theorem phyNonMatchingDiscarded : Obligations.PhyNonMatchingDiscarded := by
  intro s u w hp h ha hd
  rw [step_phyReceived hp h, onPhyReceived_discarded (s := polled s) hd, completePhy_of_awaiting (s := polled s) ha]

/-- Settles O28. -/
theorem phyFinalResponse : Obligations.PhyFinalResponse := by
  intro s u w hp h ha hm hs
  rw [step_phyReceived hp h, onPhyReceived_final (s := polled s) ha hm hs, nextEvent_eq_polled h nofun,
    completePhy_eq_phyFinishedIfDone]
  rfl

/-! ## The Self-ID chain (R245) -/

/-- The word goes to the place that `CHAIN_LEN` names. -/
theorem appendChain_eq {c : Chain} (w : Word) (h : c.len ≠ 3) :
    appendChain c w = { w0 := if c.len = 0 then w else c.w0, w1 := if c.len = 1 then w else c.w1,
                        w2 := if c.len = 2 then w else c.w2, len := c.len + 1 } := by
  have hlen : ∀ len : BitVec 2, len ≠ 3 → len = 0 ∨ len = 1 ∨ len = 2 := by decide
  obtain ⟨w0, w1, w2, len⟩ := c
  rcases hlen len h with rfl | rfl | rfl <;> rfl

/-- The response stays awaited exactly while the word announces another one and the chain has room for it. -/
theorem awaitResp_afterSelfId {f : Flags} (ha : f.awaitResp = true) (w : Word) (len : BitVec 2) :
    (if moreFollows w = false ∨ len + 1 = 3 then flagsAfterResponse f else f) =
      { f with awaitResp := decide (field w 0 1 = 1 ∧ len ≠ 2) } := by
  have hlen : len + 1 = 3 ↔ len = 2 := by revert len; decide
  simp only [hlen, moreFollows, beq_eq_false_iff_ne]
  by_cases h : field w 0 1 = 1 ∧ len ≠ 2
  · have hgo : ¬ (field w 0 1 ≠ 1 ∨ len = 2) := by tauto
    rw [if_neg hgo, decide_eq_true h, ← ha]
  · have hstop : field w 0 1 ≠ 1 ∨ len = 2 := by tauto
    rw [if_pos hstop, decide_eq_false h]
    rfl

theorem acceptSelfId_eq {s : State} (ha : s.flags.awaitResp = true) (hroom : s.chain.len ≠ 3) (w : Word) :
    acceptSelfId w s = { s with
      chain := { w0 := if s.chain.len = 0 then w else s.chain.w0, w1 := if s.chain.len = 1 then w else s.chain.w1,
                 w2 := if s.chain.len = 2 then w else s.chain.w2, len := s.chain.len + 1 },
      phyRes := { s.phyRes with lastResp := w },
      flags := { s.flags with awaitResp := decide (field w 0 1 = 1 ∧ s.chain.len ≠ 2) } } := by
  rw [acceptSelfId, appendChain_eq w hroom, awaitResp_afterSelfId ha]
  rfl

/-- Settles O27, from the chain's append and the flag after a Self-ID word. -/
theorem phySelfIdAccumulates : Obligations.PhySelfIdAccumulates := by
  intro s u w hp h ha hm hs hroom
  rw [step_phyReceived hp h, onPhyReceived_selfId (s := polled s) ha hm hs, acceptSelfId_eq (s := polled s) ha hroom,
    nextEvent_eq_polled h nofun, completePhy_eq_phyFinishedIfDone]
  rfl

/-! ## PING's predicate (R252) -/

/-- The top byte of a word: its PHY packet class and its phy id. -/
theorem topByte_eq (w : Word) : w &&& 0xFF000000 = place (field w 30 2) 30 ||| place (field w 24 6) 24 := by
  have hmask : (0xFF000000 : Word) = place (BitVec.allOnes 8) 24 := rfl
  apply BitVec.eq_of_getLsbD_eq
  intro i hi
  rw [hmask]
  simp only [BitVec.getLsbD_and, BitVec.getLsbD_or, getLsbD_place, getLsbD_field, BitVec.getLsbD_allOnes]
  by_cases h24 : 24 ≤ i
  · by_cases h30 : 30 ≤ i
    · simp [hi, h24, h30, show i - 24 < 8 by omega, show ¬ i - 24 < 6 by omega, show i - 30 < 2 by omega,
        show 30 + (i - 30) = i by omega]
    · simp [hi, h24, h30, show i - 24 < 8 by omega, show i - 24 < 6 by omega, show 24 + (i - 24) = i by omega]
  · simp [h24, show ¬ 30 ≤ i by omega]

/-- Settles O29: PING's mask takes the top byte, and the byte is the two fields. -/
theorem pingMatchesItsSelfIds : Obligations.PingMatchesItsSelfIds := by
  refine fun phy w => ⟨_, _, _, rfl, rfl, ?_⟩
  have hbits : (0x80000000 : Word) ||| phyIdBits phy = place 0b10#2 30 ||| place phy 24 := rfl
  rw [topByte_eq, hbits]
  refine ⟨fun h => ⟨?_, ?_⟩, fun ⟨hclass, hphy⟩ => by rw [hclass, hphy]; rfl⟩
  · simpa [field_place_same, field_place_disjoint] using congrArg (field · 30 2) h
  · simpa [field_place_same, field_place_disjoint] using congrArg (field · 24 6) h

end Sys2Proof.Machine
end

section
/-! PROOFS of the family 41_phy_transaction.md: what every wait phase makes of the events it does not wait for (O35). -/

namespace Sys2Proof.Machine

open Sys2Proof.Claims

/-! ## The completion tests while a signal is awaited -/

theorem completeFcp_of_awaiting {s : State} (h : ¬ (s.flags.fcpAckDone = true ∧ s.flags.fcpReqDone = true)) :
    completeFcp s = s := by
  simp [completeFcp, fcpDone, h]

theorem completeScan_of_awaiting {s : State} (h : s.scan.rxMask ≠ 0xFC) : completeScan s = s :=
  if_neg (by simpa [scanDone] using h)

/-! ## An event that the phase's handler passes over leaves the poll as it was taken -/

section
variable {s u : State} {e : Event} (h : nextEvent s = .event e u) (hb : ∀ g root loc, e ≠ .busReset g root loc)
include h hb

theorem step_phyWait_discards (hp : s.phase = .phyWait) (hd : onPhyEvent e (polled s) = .go (polled s))
    (ha : s.flags.awaitSent = true ∨ s.flags.awaitResp = true) : step s = .next (polled s) := by
  obtain rfl := nextEvent_eq_polled h hb
  rw [step_phyWait_go hp h hd, completePhy_of_awaiting (s := polled s) ha]

theorem step_asyncWait_discards (hp : s.phase = .asyncWait) (hd : onAsyncEvent e (polled s) = .go (polled s)) :
    step s = .next (polled s) := by
  obtain rfl := nextEvent_eq_polled h hb
  rw [step_asyncWait hp, pollAsync_eq, h, Poll.resume, hd, go_state]

theorem step_fcpWait_discards (hp : s.phase = .fcpWait) (hd : onFcpEvent e (polled s) = .go (polled s))
    (ha : ¬ (s.flags.fcpAckDone = true ∧ s.flags.fcpReqDone = true)) : step s = .next (polled s) := by
  obtain rfl := nextEvent_eq_polled h hb
  rw [step_fcpWait hp, pollFcp_eq, h, Poll.resume, hd, go_andThen, go_state,
    completeFcp_of_awaiting (s := polled s) ha]

theorem step_scanWait_discards (hp : s.phase = .scanWait) (hd : onScanEvent e (polled s) = .go (polled s))
    (ha : s.scan.rxMask ≠ 0xFC) : step s = .next (polled s) := by
  obtain rfl := nextEvent_eq_polled h hb
  rw [step_scanWait hp, pollScan_eq, h, Poll.resume, hd, go_andThen, go_state,
    completeScan_of_awaiting (s := polled s) ha]

end

/-! ## Runs over events of unknown types -/

/-- No wait phase waits for an event of an unknown type. -/
theorem step_discards_other {s u : State} (hw : stillAwaiting s) (h : nextEvent s = .event .other u) :
    step s = .next (polled s) := by
  obtain ⟨hwait, hphy, hfcp, hscan⟩ := hw
  cases hp : s.phase with
  | phyWait => exact step_phyWait_discards h nofun hp rfl (hphy hp)
  | asyncWait => exact step_asyncWait_discards h nofun hp rfl
  | fcpWait => exact step_fcpWait_discards h nofun hp rfl (hfcp hp)
  | scanWait => exact step_scanWait_discards h nofun hp rfl (hscan hp)
  | idle | reserved5 | reserved6 | faulted => simp [hp, Phase.waiting] at hwait

theorem run_succ_of_step {s t : State} (h : step s = .next t) (k : Nat) :
    Host.Core.run Sys2Proof.core (k + 1) s = Host.Core.run Sys2Proof.core k t := by
  have h' : Sys2Proof.core.step s = .next t := h
  simp only [Host.Core.run, h']

/-- Each unknown event costs one poll and leaves the wait where it was. -/
theorem run_over_unknownEvents (rs : List EventRecord) {s : State} {es : List PollAnswer} (hw : stillAwaiting s)
    (hr : ∀ r ∈ rs, validRecord s.params r ∧ unknownType r.type) (he : s.evtIn = rs.map PollAnswer.event ++ es) :
    Host.Core.run Sys2Proof.core rs.length s = .next { s with evtIn := es, polls := s.polls + rs.length } := by
  induction rs generalizing s with
  | nil =>
    obtain rfl : s.evtIn = es := he
    rfl
  | cons r rs ih =>
    obtain ⟨hv, ht⟩ := hr r List.mem_cons_self
    have hev := nextEvent_of_valid (pollAnswer_listed he) hv
    rw [decodeEvent_unknown ht] at hev
    have htail : (polled s).evtIn = rs.map PollAnswer.event ++ es := by simp [polled, he]
    rw [List.length_cons, run_succ_of_step (step_discards_other hw hev),
      ih (s := polled s) hw (fun r' hr' => hr r' (List.mem_cons_of_mem r hr')) htail, Nat.add_comm rs.length 1,
      ← Nat.add_assoc]
    rfl

/-- Settles O35: the runs by `run_over_unknownEvents`; one step by its phase, whose handler passes over each of the
listed events. -/
theorem unrelatedEventsDiscarded : Obligations.UnrelatedEventsDiscarded := by
  refine ⟨?_, fun s u e h => ⟨?_, ?_, ?_, ?_⟩⟩
  · rintro _ s rs es hw rfl hr he
    exact run_over_unknownEvents rs hw hr he
  · rintro hp ha (rfl | ⟨_, _, _, _, rfl⟩ | ⟨_, _, _, _, _, rfl⟩) <;>
      exact step_phyWait_discards h nofun hp rfl ha
  · rintro hp (rfl | ⟨_, _, rfl⟩ | ⟨_, rfl⟩ | ⟨_, _, _, _, _, rfl⟩) <;>
      exact step_asyncWait_discards h nofun hp rfl
  · rintro hp ha (rfl | ⟨_, _, rfl⟩ | ⟨_, rfl⟩) <;>
      exact step_fcpWait_discards h nofun hp rfl ha
  · rintro hp ha (rfl | ⟨_, rfl⟩ | ⟨_, _, _, _, rfl⟩ | ⟨_, _, _, _, _, rfl⟩) <;>
      exact step_scanWait_discards h nofun hp rfl ha

end Sys2Proof.Machine
end

section
/-! PROOFS of the family 42_async_transaction.md: the selection of the tcode (O39), and how ASYNC_READ and ASYNC_WRITE
start (O36, O37). -/

namespace Sys2Proof.Machine

open Sys2Proof.Claims

/-! ## The tcode (R280) -/

/-- An offset is quadlet-aligned where its remainder by 4 is 0. -/
theorem quadletAligned_iff (o : Offset) : o.extractLsb' 0 2 = 0 ↔ o.toNat % 4 = 0 := by
  rw [← BitVec.toNat_inj]
  simp

theorem isQuadlet_iff (o : Offset) (len : BitVec 16) : isQuadlet o len = true ↔ len = 4 ∧ o.toNat % 4 = 0 := by
  simp only [isQuadlet, Bool.and_eq_true, beq_iff_eq, quadletAligned_iff]

theorem selectReadTcode_eq (o : Offset) (len : BitVec 16) :
    selectReadTcode o len = if len = 4 ∧ o.toNat % 4 = 0 then 0x4 else 0x5 := by
  simp only [selectReadTcode, isQuadlet_iff, tcodeReadQuadlet, tcodeReadBlock]

theorem selectWriteTcode_eq (o : Offset) (len : BitVec 16) :
    selectWriteTcode o len = if len = 4 ∧ o.toNat % 4 = 0 then 0x0 else 0x1 := by
  simp only [selectWriteTcode, isQuadlet_iff, tcodeWriteQuadlet, tcodeWriteBlock]

/-- The low bits of an offset, read from its low word. -/
theorem lowBits_eq_zero_iff (o : Offset) : field (o.setWidth 32) 0 2 = 0 ↔ o.toNat % 4 = 0 := by
  have hlow : field (o.setWidth 32) 0 2 = o.extractLsb' 0 2 := by
    apply BitVec.eq_of_getLsbD_eq
    intro i hi
    simp [getLsbD_field, hi, show i < 32 by omega, -BitVec.getLsbD_eq_getElem]
  rw [hlow, quadletAligned_iff]

/-- Settles O39: both selections turn on the length and the offset's remainder by 4. -/
theorem tcodeSelection : Obligations.TcodeSelection := by
  intro o len
  simp only [lowBits_eq_zero_iff]
  exact ⟨selectReadTcode_eq o len, selectWriteTcode_eq o len⟩

/-! ## An accepted submission of the request registers (R202, R283) -/

/-- The state after an accepted `SubmitAsync()`: the request stamped, submitted and counted (R202). -/
def asyncSubmitted (s : State) : State :=
  { s with req := { s.req with gen := s.ctx.gen, submits := s.req.submits + 1 },
           subOut := s.subOut ++ [asyncRecord s.req (requestPayload s.req) s.ctx.gen],
           submitAnswers := s.submitAnswers.tail }

theorem submitAsync_ok {s : State} {op : Nat} (h : submitAnswer s = .ok op) :
    submitAsync s = .go (asyncSubmitted s) := by
  rw [submitAsync, submit_ok (s := stampRequest s) h]
  rfl

theorem submitAsync_rejected {s : State} (h : submitAnswer s = .rejected) :
    submitAsync s = .ended (faultedWith 2 3 .faulted { s with
      req := { s.req with gen := s.ctx.gen },
      subOut := s.subOut ++ [asyncRecord s.req (requestPayload s.req) s.ctx.gen],
      submitAnswers := s.submitAnswers.tail }) := by
  rw [submitAsync, submit_rejected (s := stampRequest s) h, raise_eq_faultedWith]
  rfl

/-- A command that has loaded the request registers with `r`, and whose submission is accepted, waits. -/
theorem sendAsync_setReq {s : State} {op : Nat} (h : submitAnswer s = .ok op) (opc : BitVec 4) (r : Request) :
    sendAsync ((s.setCmdOp opc).setReq r) = .go (asyncStarted opc r (requestPayload r) s) := by
  rw [sendAsync, submitAsync_ok (s := clearSubmits ((s.setCmdOp opc).setReq r)) h]
  rfl

/-- The guards of ASYNC_READ and ASYNC_WRITE passed, the command goes on as `SendAsync()`, whatever it loads. -/
theorem accept_guardedSend {s : State} {n : Nat} (hp : s.phase ≠ .faulted) (hg : s.ctx.genValid = true)
    (hn : n ≤ s.params.maxPayload.toNat) (opc : BitVec 4) (load : State → State) :
    accept opc (fun s => (requireConnected s).andThen fun s =>
      (requireLength n s).andThen fun s => sendAsync (load s)) s
        = .next (sendAsync (load (s.setCmdOp opc))).state := by
  rw [accept_ready hp, requireConnected_of (s.setCmdOp opc) hg, go_andThen, requireLength_of (s.setCmdOp opc) hn,
    go_andThen]

/-! ## The payload of a submission (R202) -/

theorem requestPayload_read {r : Request} (h : r.tcode = 0x4 ∨ r.tcode = 0x5) : requestPayload r = [] := if_pos h

/-- A request that is no read carries the payload just stored. -/
theorem requestPayload_stored {r : Request} {m : Memory} {b : List Byte} (ht : r.tcode ≠ 0x4 ∧ r.tcode ≠ 0x5)
    (hm : Memory.wf m = true) (hpay : r.payload = writeBytes m 0 b) (hlen : r.len.toNat = b.length) :
    requestPayload r = b := by
  have hread : ¬ (r.tcode = tcodeReadQuadlet ∨ r.tcode = tcodeReadBlock) := not_or.mpr ht
  rw [requestPayload, if_neg hread, hpay, hlen, readBytes_writeBytes b 0 m hm]

/-! ## The two commands -/

/-- Settles O36. -/
theorem asyncReadSubmits : Obligations.AsyncReadSubmits := by
  intro s o len op hp hg hlen ha
  have hload : loadReadRequest (selectReadTcode o len) o len (s.setCmdOp 0x3) = (s.setCmdOp 0x3).setReq
      { s.req with tcode := if len = 4 ∧ o.toNat % 4 = 0 then 0x4 else 0x5, offset := o, len := len } := by
    rw [← selectReadTcode_eq]
    rfl
  refine (accept_guardedSend hp hg hlen 0x3 (loadReadRequest (selectReadTcode o len) o len)).trans ?_
  rw [hload, sendAsync_setReq ha, requestPayload_read (ite_eq_or_eq _ _ _), go_state]

/-- Settles O37: as the read; the submission's payload is what `REQ_PAYLOAD` gives back (`readBytes_writeBytes`). -/
theorem asyncWriteSubmits : Obligations.AsyncWriteSubmits := by
  intro s o b op hp hg hlen hwf ha
  have hfits : (BitVec.ofNat 16 b.length).toNat = b.length := by
    rw [BitVec.toNat_ofNat]
    exact Nat.mod_eq_of_lt (Nat.lt_of_le_of_lt hlen s.params.maxPayload.isLt)
  have hfour : BitVec.ofNat 16 b.length = 4 ↔ b.length = 4 := by rw [← BitVec.toNat_inj, hfits]; rfl
  have htcode := selectWriteTcode_eq o (BitVec.ofNat 16 b.length)
  simp only [hfour] at htcode
  have hwrite : selectWriteTcode o (BitVec.ofNat 16 b.length) ≠ 0x4 ∧
      selectWriteTcode o (BitVec.ofNat 16 b.length) ≠ 0x5 := by
    rw [htcode]
    split <;> decide
  refine (accept_guardedSend hp hg hlen 0x4
    (loadRequest (selectWriteTcode o (BitVec.ofNat 16 b.length)) o b)).trans ?_
  rw [← htcode, loadRequest, sendAsync_setReq ha, requestPayload_stored hwrite hwf rfl hfits, go_state]
  rfl

end Sys2Proof.Machine
end

section
/-! PROOFS of the family 42_async_transaction.md: what one AsyncResponse does in ASYNC_WAIT (O40, O41), and runs of the
retry loop (O42). -/

namespace Sys2Proof.Machine

open Sys2Proof.Claims

/-! ## One AsyncResponse in ASYNC_WAIT -/

/-- A delivered response carries as many payload bytes as its length says. -/
theorem asyncResponse_length {s u : State} {rc : BitVec 5} {n : BitVec 16} {p : List Byte} {h : Nat}
    (he : nextEvent s = .event (.asyncResponse rc n p h) u) : p.length = n.toNat := by
  obtain ⟨r, _, _, _, hr, _⟩ := nextEvent_event he
  unfold decodeEvent at hr
  split_ifs at hr
  cases hr
  rw [EventRecord.payloadBytes, EventRecord.payloadLength, List.length_take, BitVec.toNat_ofNat]
  exact Nat.min_eq_left (Nat.mod_le _ _)

theorem decodeEvent_of_typeResponse {r : EventRecord} (h : r.type = 0x01) :
    decodeEvent r = .asyncResponse r.rcode r.payloadLength r.payloadBytes r.handle := by
  simp [decodeEvent, h, typeBusReset, typeResponse]

/-- A step of ASYNC_WAIT that receives a response. -/
theorem step_asyncResponse {s u : State} {rc : BitVec 5} {n : BitVec 16} {p : List Byte} {h : Nat}
    (hp : s.phase = .asyncWait) (he : nextEvent s = .event (.asyncResponse rc n p h) u) :
    step s = .next (onAsyncResponse rc n p u).state := by
  rw [step_asyncWait hp, pollAsync_eq, he]
  rfl

/-- The end of the command returns the payload as delivered: it is what `RESP_DATA` gives back. -/
theorem finishAsync_storeResponse {s : State} {n : BitVec 16} {p : List Byte} (hm : Memory.wf s.resp.data = true)
    (hn : p.length = n.toNat) (status : BitVec 4) (rc : BitVec 5) :
    finishAsync status (storeResponse rc n p s) = asyncFinished status rc n p s := by
  have hread : readBytes (storeResponse rc n p s).resp.data 0 (storeResponse rc n p s).resp.len.toNat = p := by
    change readBytes (writeBytes s.resp.data 0 p) 0 n.toNat = p
    rw [← hn, readBytes_writeBytes p 0 s.resp.data hm]
  rw [finishAsync, hread]
  rfl

theorem onAsyncResponse_terminal {rc : BitVec 5} (hrc : rc ≠ 0x13) (n : BitVec 16) (p : List Byte) (s : State) :
    onAsyncResponse rc n p s = .ended (finishAsync (if rc = 0 then 0 else 1) (storeResponse rc n p s)) := if_neg hrc

theorem onAsyncResponse_generation (n : BitVec 16) (p : List Byte) (s : State) :
    onAsyncResponse 0x13 n p s = if retriesUsedUp s.params s.req.submits then
      .ended (finishAsync 1 (storeResponse 0x13 n p s)) else submitAsync s := rfl

theorem retriesUsedUp_iff (p : Params) (submits : Word) :
    retriesUsedUp p submits = true ↔ ∃ k, p.maxGenRetries = some k ∧ k < submits.toNat := by
  unfold retriesUsedUp
  cases p.maxGenRetries <;> simp

/-- Settles O40. -/
theorem asyncTerminalResponse : Obligations.AsyncTerminalResponse := by
  intro s u rc n p h hp he hrc hm
  obtain rfl := nextEvent_eq_polled he nofun
  rw [step_asyncResponse hp he, onAsyncResponse_terminal hrc, ended_state,
    finishAsync_storeResponse (s := polled s) hm (asyncResponse_length he)]

/-- A GENERATION response while the retries are not used up resubmits (R285). -/
theorem step_generation_retry {s u : State} {n : BitVec 16} {p : List Byte} {h : Nat} (hp : s.phase = .asyncWait)
    (he : nextEvent s = .event (.asyncResponse 0x13 n p h) u)
    (hk : ∀ k, s.params.maxGenRetries = some k → s.req.submits.toNat ≤ k) :
    step s = .next (submitAsync (polled s)).state := by
  obtain rfl := nextEvent_eq_polled he nofun
  have hmore : ¬ retriesUsedUp (polled s).params (polled s).req.submits = true := by
    rw [retriesUsedUp_iff]
    exact fun ⟨k, hsome, hlt⟩ => Nat.not_lt.mpr (hk k hsome) hlt
  rw [step_asyncResponse hp he, onAsyncResponse_generation, if_neg hmore]

/-- Settles O41: the two answers to the resubmission, then the bound. -/
theorem asyncGenerationRetry : Obligations.AsyncGenerationRetry := by
  intro s u n p h hp he
  obtain rfl := nextEvent_eq_polled he nofun
  refine ⟨fun hk => ⟨fun op ha => ?_, fun ha => ?_⟩, fun k hsome hlt hm => ?_⟩
  · rw [step_generation_retry hp he hk, submitAsync_ok ha]
    rfl
  · rw [step_generation_retry hp he hk, submitAsync_rejected ha]
    rfl
  · have hused : retriesUsedUp (polled s).params (polled s).req.submits = true :=
      (retriesUsedUp_iff _ _).2 ⟨k, hsome, hlt⟩
    rw [step_asyncResponse hp he, onAsyncResponse_generation, if_pos hused, ended_state,
      finishAsync_storeResponse (s := polled s) hm (asyncResponse_length he)]

/-! ## Runs of the retry loop -/

/-- The state after `k` accepted resubmissions: `gen` is what the last of them left in `REQ_GEN`, `es` and `rest` are
the deliveries and the answers still to come. -/
def resubmitted (k : Nat) (gen : Word) (es : List PollAnswer) (rest : List SubmitAnswer) (s : State) : State :=
  { s with req := { s.req with gen := gen, submits := s.req.submits + BitVec.ofNat 32 k },
           subOut := s.subOut ++ List.replicate k (asyncRecord s.req (requestPayload s.req) s.ctx.gen),
           evtIn := es, polls := s.polls + k, submitAnswers := rest }

/-- Resubmissions add up: the request they repeat and the generation they carry stay the same. -/
theorem resubmitted_asyncSubmitted (k : Nat) (gen : Word) (es : List PollAnswer) (rest : List SubmitAnswer)
    (s : State) : resubmitted k gen es rest (asyncSubmitted (polled s)) = resubmitted (k + 1) gen es rest s := by
  have hsubmits : s.req.submits + 1 + BitVec.ofNat 32 k = s.req.submits + BitVec.ofNat 32 (k + 1) := by
    rw [Nat.add_comm k 1, BitVec.ofNat_add, BitVec.add_assoc]
    rfl
  have hpolls : s.polls + 1 + k = s.polls + (k + 1) := by omega
  have hsub (x : Submission) : s.subOut ++ [x] ++ List.replicate k x = s.subOut ++ List.replicate (k + 1) x := by
    rw [List.append_assoc]
    rfl
  simp only [resubmitted, ← hsubmits, ← hpolls, ← hsub]
  rfl

/-- A valid GENERATION response and an accepted resubmission: one turn of the retry loop. -/
theorem step_retries {s : State} {g : EventRecord} {es : List PollAnswer} {op : Nat} {rest : List SubmitAnswer}
    (hp : s.phase = .asyncWait) (hb : s.params.maxGenRetries = none) (he : s.evtIn = .event g :: es)
    (hv : validRecord s.params g) (ht : g.type = 0x01) (hrc : g.rcode = 0x13)
    (ha : s.submitAnswers = .ok op :: rest) : step s = .next (asyncSubmitted (polled s)) := by
  have hev : nextEvent s = .event (.asyncResponse 0x13 g.payloadLength g.payloadBytes g.handle) (polled s) := by
    rw [nextEvent_of_valid (pollAnswer_listed he) hv, decodeEvent_of_typeResponse ht, hrc]
    rfl
  have hans : submitAnswer (polled s) = .ok op := by simp only [submitAnswer, polled, ha]
  rw [step_generation_retry hp hev (by simp [hb]), submitAsync_ok hans, go_state]

/-- Any number of turns of the retry loop, and `j` steps after them. -/
theorem run_retries (gs : List EventRecord) {s : State} {es : List PollAnswer} {ops : List Nat}
    {rest : List SubmitAnswer} (hp : s.phase = .asyncWait) (hb : s.params.maxGenRetries = none)
    (hgs : ∀ g ∈ gs, validRecord s.params g ∧ g.type = 0x01 ∧ g.rcode = 0x13)
    (he : s.evtIn = gs.map PollAnswer.event ++ es) (hops : ops.length = gs.length) (ha : acceptsNext s ops rest) :
    ∃ gen, ∀ j, Host.Core.run Sys2Proof.core (gs.length + j) s
      = Host.Core.run Sys2Proof.core j (resubmitted gs.length gen es rest s) := by
  induction gs generalizing s ops with
  | nil =>
    obtain rfl := List.eq_nil_of_length_eq_zero hops
    obtain rfl : s.evtIn = es := he
    obtain rfl : s.submitAnswers = rest := ha
    exact ⟨s.req.gen, fun j => by simp [resubmitted]⟩
  | cons g gs ih =>
    obtain ⟨op, ops, rfl⟩ := List.exists_cons_of_length_eq_add_one hops
    obtain ⟨hv, ht, hrc⟩ := hgs g List.mem_cons_self
    have hstep := step_retries hp hb he hv ht hrc ha
    have htail : (asyncSubmitted (polled s)).evtIn = gs.map PollAnswer.event ++ es := by
      simp [asyncSubmitted, polled, he]
    have hrest : acceptsNext (asyncSubmitted (polled s)) ops rest := by
      have ha' : s.submitAnswers = .ok op :: (ops.map SubmitAnswer.ok ++ rest) := ha
      simp [acceptsNext, asyncSubmitted, polled, ha']
    obtain ⟨gen, hrun⟩ := ih (s := asyncSubmitted (polled s)) hp hb
      (fun g' hg' => hgs g' (List.mem_cons_of_mem g hg')) htail (Nat.succ.inj hops) hrest
    refine ⟨gen, fun j => ?_⟩
    rw [List.length_cons, Nat.add_right_comm, run_succ_of_step hstep, hrun, resubmitted_asyncSubmitted]

/-- Settles O42: `run_retries` for the retries, O40 for the response after them. -/
theorem generationRetryRun : Obligations.GenerationRetryRun := by
  intro k s gs r es ops rest hp hb hm hk hgs hv ht hrc hlen he hops ha
  subst hk
  obtain ⟨gen, hrun⟩ := run_retries gs hp hb hgs he hops ha
  refine ⟨⟨_, hrun 0, hp, rfl, rfl⟩, ?_⟩
  have hev := nextEvent_of_valid (s := resubmitted gs.length gen (.event r :: es) rest s) (pollAnswer_listed rfl) hv
  rw [decodeEvent_response hlen ht, hrc] at hev
  have hlast := asyncTerminalResponse (resubmitted gs.length gen (.event r :: es) rest s) _ 0 _ _ _ hp hev
    (by decide) hm
  exact ⟨_, (hrun 1).trans (run_succ_of_step hlast 0), rfl, rfl, rfl, rfl, rfl, rfl, rfl, rfl, rfl⟩

end Sys2Proof.Machine
end

section
/-! PROOFS of the family 43_lock.md: the kinds and lengths refused by name before any submission (O18). -/

namespace Sys2Proof.Machine

open Sys2Proof.Claims

/-! ## Records whose kind is no row of the table (R124, R466) -/

/-- `SUB` 0 and 7 to 15 name no lock kind (R330). -/
theorem lockKindOf_eq_none {sub : BitVec 4} (h : sub = 0 ∨ 7 ≤ sub.toNat) : lockKindOf sub = none := by
  rcases h with rfl | h
  · rfl
  · unfold lockKindOf
    split
    case h_7 => rfl
    all_goals omega

theorem decodeRecord_badEncodeLock {h : Word} (ops : List Word) (ho : headerOpc h = 0x6) (hr : headerRsv h = 0)
    (hs : headerSub h = 0 ∨ 7 ≤ (headerSub h).toNat) : decodeRecord h ops = .reject .badEncodeLockOp := by
  rw [decodeRecord_checked (by simp [ho]) (by simp [reservedBitsSet, ho, hr])]
  simp [decodeChecked, ho, lockKindOf_eq_none hs]

theorem decodeRecord_badAsyncLock {h : Word} {ops : List Word} (ho : headerOpc h = 0x5) (hr : headerRsv h = 0)
    (hs : headerSub h = 0 ∨ 7 ≤ (headerSub h).toNat) (hoff : field (operand ops 0) 16 16 = 0) :
    decodeRecord h ops = .reject .badAsyncLockOp := by
  rw [decodeRecord_checked (by simp [ho]) (by simp [reservedBitsSet, ho, hr, hoff])]
  simp [decodeChecked, ho, lockKindOf_eq_none hs]

theorem decodeRecord_badResetKind {h : Word} (ops : List Word) (ho : headerOpc h = 0xB) (hr : headerRsv h = 0)
    (hs : 2 ≤ (headerSub h).toNat) (ha : headerArg h = 0) : decodeRecord h ops = .reject .badResetKind := by
  rw [decodeRecord_checked (by simp [ho]) (by simp [reservedBitsSet, ho, hr, ha])]
  simp only [decodeChecked, ho]
  split
  case h_12 =>
    split
    · omega
    · omega
    · rfl
  all_goals contradiction

/-! ## The answers to the rejections, outside FAULTED -/

/-- A rejection behind the connection guard: the guard's fault where it fails, its own fault otherwise (R462). -/
theorem guardedRejection_eq (info : Word) (s : State) :
    ((requireConnected s).andThen fun s => .ended (raise .invalidArgument info s))
      = .ended (faultedWith 7 (if s.ctx.genValid then info else 3) .idle s) := by
  cases hg : s.ctx.genValid with
  | true => rw [requireConnected_of s hg, go_andThen, raise_eq_faultedWith]; rfl
  | false => rw [requireConnected_of_not s hg, ended_andThen, raise_eq_faultedWith]; rfl

theorem execReject_badEncodeLockOp {s : State} (hp : s.phase ≠ .faulted) :
    execReject .badEncodeLockOp s = .next (faultedWith 7 6 .idle { s with cmdOp := 0x6 }) := by
  refine (accept_ready hp).trans ?_
  rw [rejectEncodeLock, ended_state, raise_eq_faultedWith]
  rfl

theorem execReject_badAsyncLockOp {s : State} (hp : s.phase ≠ .faulted) :
    execReject .badAsyncLockOp s
      = .next (faultedWith 7 (if s.ctx.genValid then 6 else 3) .idle { s with cmdOp := 0x5 }) := by
  refine (accept_ready hp).trans ?_
  rw [rejectAsyncLock, guardedRejection_eq]
  rfl

theorem execReject_badResetKind {s : State} (hp : s.phase ≠ .faulted) :
    execReject .badResetKind s
      = .next (faultedWith 7 (if s.ctx.genValid then 7 else 3) .idle { s with cmdOp := 0xB }) := by
  refine (accept_ready hp).trans ?_
  rw [rejectResetKind, guardedRejection_eq]
  rfl

/-- A step in IDLE on a whole record that is no row of the table runs its rejection. -/
theorem step_rejects {s : State} {h : Word} {ops rest : List Word} {r : Reject} (hp : s.phase = .idle)
    (hc : s.cmdIn = h :: (ops ++ rest)) (hl : ops.length = operandCount h) (hd : decodeRecord h ops = .reject r) :
    step s = execReject r { s with cmdIn := rest } := by
  have hdec : decode s.cmdIn = some (.reject r, rest) := by rw [hc, decode_record hl.symm, hd]
  exact (step_of_accepting (.inl hp)).trans (acceptStep_of_decode hdec)

/-! ## Lengths above P_MAX_PAYLOAD (R281, R282, R360) -/

/-- A connected command of length `n` past the bound ends at its length check, whatever it would do next. -/
theorem accept_tooLong {s : State} {n : Nat} (hp : s.phase ≠ .faulted) (hg : s.ctx.genValid = true)
    (hn : s.params.maxPayload.toNat < n) (opc : BitVec 4) (k : State → Flow) :
    accept opc (fun s => (requireConnected s).andThen fun s => (requireLength n s).andThen k) s
      = .next (faultedWith 7 4 .idle { s with cmdOp := opc }) := by
  rw [accept_ready hp, requireConnected_of (s.setCmdOp opc) hg, go_andThen, requireLength_of_not (s.setCmdOp opc) hn,
    ended_andThen, ended_state, raise_eq_faultedWith]
  rfl

/-- Settles O18: what each bad record is decoded as, what its rejection answers, and the length check. -/
theorem badKindsAndLengthsRefused : Obligations.BadKindsAndLengthsRefused := by
  refine ⟨fun s h ops rest hp hc hl hr => ?_, fun s hp => ⟨execReject_badEncodeLockOp hp, fun hg => ?_⟩⟩
  · have hready : ({ s with cmdIn := rest } : State).phase ≠ .faulted := by simp [hp]
    refine ⟨fun ho hs => ?_, fun ho hs hoff => ?_, fun ho hs ha => ?_⟩
    · rw [step_rejects hp hc hl (decodeRecord_badEncodeLock ops ho hr hs), execReject_badEncodeLockOp hready, ho]
    · have hoff : field (operand ops 0) 16 16 = 0 := by rwa [operand, ← List.headD_eq_getD]
      rw [step_rejects hp hc hl (decodeRecord_badAsyncLock ho hr hs hoff), execReject_badAsyncLockOp hready, ho]
    · rw [step_rejects hp hc hl (decodeRecord_badResetKind ops ho hr hs ha), execReject_badResetKind hready, ho]
  · have hlock := execReject_badAsyncLockOp hp
    have hreset := execReject_badResetKind hp
    rw [if_pos hg] at hlock hreset
    exact ⟨hlock, hreset, fun _ _ hn => accept_tooLong hp hg hn 0x3 _, fun _ _ hn => accept_tooLong hp hg hn 0x4 _,
      fun _ hn => accept_tooLong hp hg hn 0xA _⟩

end Sys2Proof.Machine
end

section
/-! PROOFS of the family 43_lock.md: the operand checks of the lock commands (O45), and what they do with accepted
operands (O43, O44). -/

namespace Sys2Proof.Machine

open Sys2Proof.Claims

/-! ## The operand checks (R321) -/

theorem oneOperand_iff (k : LockKind) : oneOperand k = true ↔ k = .fetchAdd ∨ k = .littleAdd := by
  cases k <;> simp [oneOperand]

/-- The operand widths a lock of kind `k` takes: operand1 4 or 8 bytes, operand2 absent or as wide (R321). -/
def AcceptedWidths (k : LockKind) (w1 w2 : Nat) : Prop :=
  (w1 = 4 ∨ w1 = 8) ∧ (if k = .fetchAdd ∨ k = .littleAdd then w2 = 0 else w2 = w1)

theorem lockWidthFault_eq_none {k : LockKind} {w1 w2 : Nat} (h : AcceptedWidths k w1 w2) :
    lockWidthFault k w1 w2 = none := by
  obtain ⟨h1, h2⟩ := h
  simp only [← oneOperand_iff] at h2
  unfold lockWidthFault
  cases hk : oneOperand k with
  | true =>
    obtain rfl : w2 = 0 := by simpa [hk] using h2
    simp [h1]
  | false =>
    obtain rfl : w2 = w1 := by simpa [hk] using h2
    simp [h1, show w2 ≠ 0 by omega]

/-- The checks in the order of R321, for one operand and for two. -/
theorem lockWidthFault_eq_some {k : LockKind} {w1 w2 : Nat} {info : Word}
    (h : if (if k = .fetchAdd ∨ k = .littleAdd then w2 ≠ 0 else w2 = 0) then info = 1
      else if w1 ≠ 4 ∧ w1 ≠ 8 then info = 2
      else if k ≠ .fetchAdd ∧ k ≠ .littleAdd ∧ w2 ≠ 4 ∧ w2 ≠ 8 then info = 2
      else k ≠ .fetchAdd ∧ k ≠ .littleAdd ∧ w2 ≠ w1 ∧ info = 3) : lockWidthFault k w1 w2 = some info := by
  have htwo (p : Prop) : k ≠ .fetchAdd ∧ k ≠ .littleAdd ∧ p ↔ ¬ oneOperand k = true ∧ p := by
    rw [oneOperand_iff, not_or, and_assoc]
  simp only [htwo, ← oneOperand_iff] at h
  unfold lockWidthFault infoArity infoWidth infoMismatch
  cases hk : oneOperand k with
  | true =>
    simp only [hk, if_true, not_true_eq_false, false_and, if_false] at h
    split_ifs at h with harity hwidth
    · simp [harity, h]
    · simp [hwidth, not_not.mp harity, h]
  | false =>
    simp only [hk, Bool.false_eq_true, not_false_eq_true, true_and, if_false] at h
    split_ifs at h with harity hwidth1 hwidth2
    · simp [harity, h]
    · simp [harity, hwidth1, h]
    · simp [harity, hwidth1, hwidth2, h]
    · obtain ⟨hne, rfl⟩ := h
      have h1 : w1 = 4 ∨ w1 = 8 := by omega
      have h2 : w2 = 4 ∨ w2 = 8 := by omega
      simp [harity, h1, h2, hne]

theorem requireLockOperands_of {k : LockKind} {a b : List Byte} (h : AcceptedWidths k a.length b.length) (s : State) :
    requireLockOperands k a b s = .go s := by
  simp only [requireLockOperands, lockWidthFault_eq_none h]

theorem requireLockOperands_of_fault {k : LockKind} {a b : List Byte} {info : Word}
    (h : lockWidthFault k a.length b.length = some info) (s : State) :
    requireLockOperands k a b s = .ended (faultedWith 6 info .idle s) := by
  simp only [requireLockOperands, h, raise_eq_faultedWith]
  rfl

/-! ## The twelve lock instructions, as the two commands of a kind (R320, R323) -/

theorem exec_encodeLockInstr {s : State} (hp : s.phase ≠ .faulted) (k : LockKind) (a b : List Byte) :
    exec (encodeLockInstr k a b) s = .next (encodeLockOf k a b (s.setCmdOp 0x6)).state := by
  cases k <;> exact accept_ready hp

theorem exec_asyncLockInstr {s : State} (hp : s.phase ≠ .faulted) (hg : s.ctx.genValid = true) (k : LockKind)
    (o : Offset) (a b : List Byte) :
    exec (asyncLockInstr k o a b) s = .next ((requireLockOperands k a b (s.setCmdOp 0x5)).andThen fun s =>
      sendAsync (loadRequest (lockTcode k) o (a ++ b) s)).state := by
  have hbody : exec (asyncLockInstr k o a b) s = .next (asyncLockOf k o a b (s.setCmdOp 0x5)).state := by
    cases k <;> exact accept_ready hp
  rw [hbody, asyncLockOf, requireConnected_of (s.setCmdOp 0x5) hg, go_andThen]
  rfl

/-- Settles O45: the fault that the checks give ends both commands before anything else. -/
theorem lockOperandFaults : Obligations.LockOperandFaults := by
  intro s k o a b info hp hg hinfo
  have hfault := lockWidthFault_eq_some hinfo
  refine ⟨?_, ?_⟩
  · rw [exec_encodeLockInstr hp, encodeLockOf, requireLockOperands_of_fault hfault]
    rfl
  · rw [exec_asyncLockInstr hp hg, requireLockOperands_of_fault hfault]
    rfl

/-- Settles O43: accepted operands pass the checks, and nothing else can stop the command. -/
theorem encodeLockSerialises : Obligations.EncodeLockSerialises := by
  intro s k a b hp ha hb
  rw [exec_encodeLockInstr hp, encodeLockOf, requireLockOperands_of ⟨ha, hb⟩]
  rfl

/-! ## The submission of a lock (R322, R323) -/

/-- The lock tcodes lie above the read tcodes, so a lock's submission carries its payload (R141, R202). -/
theorem lockTcode_not_read (k : LockKind) : lockTcode k ≠ 0x4 ∧ lockTcode k ≠ 0x5 := by cases k <;> decide

/-- Accepted operands fit `REQ_LEN`: they are 16 bytes at most. -/
theorem AcceptedWidths.serialised_length {k : LockKind} {a b : List Byte} (h : AcceptedWidths k a.length b.length) :
    (BitVec.ofNat 16 (a ++ b).length).toNat = (a ++ b).length := by
  obtain ⟨h1, h2⟩ := h
  rw [BitVec.toNat_ofNat, List.length_append]
  split_ifs at h2 <;> exact Nat.mod_eq_of_lt (by omega)

/-- Settles O44: the load of the request registers, then `SendAsync()` with what `REQ_PAYLOAD` gives back. -/
theorem asyncLockSubmits : Obligations.AsyncLockSubmits := by
  intro s k o a b op hp hg ha hb hm hans
  have hw : AcceptedWidths k a.length b.length := ⟨ha, hb⟩
  rw [exec_asyncLockInstr hp hg, requireLockOperands_of hw, go_andThen, loadRequest, sendAsync_setReq hans,
    requestPayload_stored (lockTcode_not_read k) hm rfl hw.serialised_length, go_state, List.length_append]
  cases k <;> rfl

end Sys2Proof.Machine
end

section
/-! PROOFS of the family 43_lock.md: the informative responder of a lock (O46). -/

namespace Sys2Proof.Machine

/-! ## Big-endian numbers (R13) -/

theorem beValue_concat (bs : List Byte) (b : Byte) : beValue (bs ++ [b]) = beValue bs * 256 + b.toNat := by
  simp [beValue]

theorem beBytes_length (n v : Nat) : (beBytes n v).length = n := by simp [beBytes]

/-- The last of `n + 1` bytes is the least significant one. -/
theorem beBytes_succ (n v : Nat) : beBytes (n + 1) v = beBytes n (v / 256) ++ [BitVec.ofNat 8 v] := by
  have hshift : ∀ i ∈ List.range n, BitVec.ofNat 8 (v >>> (8 * (n + 1 - 1 - i)))
      = BitVec.ofNat 8 ((v / 256) >>> (8 * (n - 1 - i))) := by
    intro i hi
    have hi := List.mem_range.1 hi
    rw [show 8 * (n + 1 - 1 - i) = 8 + 8 * (n - 1 - i) by omega, Nat.shiftRight_add, Nat.shiftRight_eq_div_pow v 8]
  rw [beBytes, List.range_succ, List.map_append, List.map_congr_left hshift]
  simp [beBytes]

/-- The bytes of a number give it back, modulo their range. -/
theorem beValue_beBytes (n : Nat) : ∀ v, beValue (beBytes n v) = v % 256 ^ n := by
  induction n with
  | zero => intro v; simp [beBytes, beValue, Nat.mod_one]
  | succ n ih =>
    intro v
    have hsplit : v % 256 ^ (n + 1) = v % 256 + 256 * (v / 256 % 256 ^ n) := by rw [pow_succ', Nat.mod_mul]
    rw [beBytes_succ, beValue_concat, ih, BitVec.toNat_ofNat, hsplit]
    omega

/-! ## The bytes a lock leaves (R324 to R329) -/

theorem addBytes_length (x y : List Byte) : (addBytes x y).length = x.length := beBytes_length _ _

theorem beValue_addBytes (x y : List Byte) :
    beValue (addBytes x y) = (beValue x + beValue y) % 256 ^ x.length := beValue_beBytes _ _

theorem maskSwapBytes_length {old a b : List Byte} (hold : old.length = a.length) (hb : b.length = a.length) :
    (maskSwapBytes old a b).length = a.length := by
  induction a generalizing old b with
  | nil =>
    obtain rfl := List.eq_nil_of_length_eq_zero hold
    rfl
  | cons y a ih =>
    obtain ⟨x, old, rfl⟩ := List.exists_cons_of_length_eq_add_one hold
    obtain ⟨z, b, rfl⟩ := List.exists_cons_of_length_eq_add_one hb
    exact congrArg (· + 1) (ih (Nat.succ.inj hold) (Nat.succ.inj hb))

/-- MaskSwap chooses byte by byte (R324). -/
theorem maskSwapBytes_getD {old a b : List Byte} (hold : old.length = a.length) (hb : b.length = a.length) {i : Nat}
    (hi : i < a.length) :
    (maskSwapBytes old a b).getD i 0 = b.getD i 0 ||| (old.getD i 0 &&& ~~~(a.getD i 0)) := by
  induction a generalizing old b i with
  | nil => exact absurd hi (Nat.not_lt_zero i)
  | cons y a ih =>
    obtain ⟨x, old, rfl⟩ := List.exists_cons_of_length_eq_add_one hold
    obtain ⟨z, b, rfl⟩ := List.exists_cons_of_length_eq_add_one hb
    cases i with
    | zero => rfl
    | succ i => exact ih (Nat.succ.inj hold) (Nat.succ.inj hb) (Nat.lt_of_succ_lt_succ hi)

/-- A lock leaves as many bytes as its target has. -/
theorem lockResult_length {k : LockKind} {old a b : List Byte} (hold : old.length = a.length)
    (hb : k ≠ .fetchAdd → k ≠ .littleAdd → b.length = a.length) : (lockResult k old a b).length = a.length := by
  cases k with
  | maskSwap => exact maskSwapBytes_length hold (hb nofun nofun)
  | compareSwap =>
    rw [lockResult]
    split
    · exact hb nofun nofun
    · exact hold
  | fetchAdd => exact (addBytes_length old a).trans hold
  | littleAdd => simp [lockResult, addBytes_length, hold]
  | boundedAdd =>
    rw [lockResult]
    split
    · exact hold
    · exact (addBytes_length old b).trans hold
  | wrapAdd =>
    rw [lockResult]
    split
    · exact hb nofun nofun
    · exact (addBytes_length old b).trans hold

/-- Settles O46: the memory by the laws of block writes, the target kind by kind. -/
theorem responderLocks : Obligations.ResponderLocks := by
  refine ⟨fun k o a b old new m x hm hb hold hx hnew => ?_, by decide⟩
  have hlen : old.length = a.length := by rw [hold, readBytes_length]
  have hmem : x = writeBytes m o.toNat (lockResult k old a b) := by rw [hx, respondLock, hold]
  have hres : (lockResult k old a b).length = a.length := lockResult_length hlen hb
  have htarget : new = lockResult k old a b := by
    rw [hnew, hmem, ← hres, readBytes_writeBytes _ _ _ hm]
  refine ⟨hold.symm, hmem ▸ writeBytes_wf _ _ hm, fun j hj => ?_, ?_⟩
  · rw [hmem, readByte_writeBytes_outside _ _ _ _ (by rwa [hres])]
  · rw [htarget, ← hlen]
    cases k with
    | maskSwap => rw [hlen]; exact fun _ => maskSwapBytes_getD hlen (hb nofun nofun)
    | compareSwap => rfl
    | fetchAdd => exact beValue_addBytes old a
    | littleAdd =>
      simp only [lockResult, List.reverse_reverse]
      simpa using beValue_addBytes old.reverse a.reverse
    | boundedAdd =>
      simp only [lockResult]
      split
      · rfl
      · exact beValue_addBytes old b
    | wrapAdd =>
      simp only [lockResult]
      split
      · rfl
      · exact beValue_addBytes old b

end Sys2Proof.Machine
end

section
/-! PROOFS of the family 44_fcp.md: how SEND_FCP starts (O47). -/

namespace Sys2Proof.Machine

open Sys2Proof.Claims

/-! ## The response range (R361) -/

theorem fcpAllocate_of_valid {s : State} (h : s.ctx.fcpRangeValid = true) : fcpAllocate s = .go s := if_pos h

theorem fcpAllocate_of_unallocated {s : State} {op : Nat} (h : s.ctx.fcpRangeValid = false)
    (ha : submitAnswer s = .ok op) :
    fcpAllocate s = .go (recordFcpRange (s.putSub (.allocate s.params.fcpRespAddr s.params.fcpRespLen))) := by
  simp [fcpAllocate, h, allocate, submit_ok ha]

/-! ## The command write (R362) -/

/-- A length that `P_MAX_PAYLOAD` allows fits the 16-bit length registers. -/
theorem toNat_length_of_allowed {s : State} {n : Nat} (h : n ≤ s.params.maxPayload.toNat) :
    (BitVec.ofNat 16 n).toNat = n :=
  (BitVec.toNat_ofNat n 16).trans (Nat.mod_eq_of_lt (Nat.lt_of_le_of_lt h s.params.maxPayload.isLt))

/-- The request registers of the command write of `b`, before SubmitAsync stamps and counts them. -/
def fcpRequest (b : List Byte) (s : State) : Request :=
  { s.req with tcode := if b.length = 4 ∧ s.params.fcpCmdAddr.toNat % 4 = 0 then 0x0 else 0x1,
               offset := s.params.fcpCmdAddr, len := BitVec.ofNat 16 b.length,
               payload := writeBytes s.req.payload 0 b }

theorem loadFcpWrite_eq {b : List Byte} {s : State} (h : b.length ≤ s.params.maxPayload.toNat) :
    loadFcpWrite b s = s.setReq (fcpRequest b s) := by
  have hfour : BitVec.ofNat 16 b.length = 4 ↔ b.length = 4 := by
    rw [← BitVec.toNat_inj, toNat_length_of_allowed h]
    rfl
  simp only [loadFcpWrite, loadRequest, fcpRequest, selectWriteTcode_eq, hfour]

theorem requestPayload_fcpRequest {b : List Byte} {s : State} (h : b.length ≤ s.params.maxPayload.toNat)
    (hm : Memory.wf s.req.payload = true) : requestPayload (fcpRequest b s) = b := by
  have hwrite : (fcpRequest b s).tcode ≠ 0x4 ∧ (fcpRequest b s).tcode ≠ 0x5 := by
    have htcode : (fcpRequest b s).tcode = 0x0 ∨ (fcpRequest b s).tcode = 0x1 := ite_eq_or_eq _ _ _
    rcases htcode with h | h <;> simp [h]
  exact requestPayload_stored hwrite hm rfl (toNat_length_of_allowed h)

/-! ## The command up to FCP_WAIT (R360) -/

/-- The state in FCP_WAIT after the accepted command write of `b` from `u`. -/
def fcpCommandSent (b : List Byte) (u : State) : State :=
  { u with phase := .fcpWait, req := { fcpRequest b u with gen := u.ctx.gen, submits := 1 },
           subOut := u.subOut ++ [asyncRecord (fcpRequest b u) b u.ctx.gen], submitAnswers := u.submitAnswers.tail }

theorem submitFcpWrite_ok {b : List Byte} {u : State} {op : Nat} (h : b.length ≤ u.params.maxPayload.toNat)
    (hm : Memory.wf u.req.payload = true) (ha : submitAnswer u = .ok op) :
    ((submitAsync (clearSubmits (loadFcpWrite b u))).andThen fun t => .go (t.setPhase .fcpWait))
      = .go (fcpCommandSent b u) := by
  have hrecord : asyncRecord (fcpRequest b u) (requestPayload (fcpRequest b u)) u.ctx.gen
      = asyncRecord (fcpRequest b u) b u.ctx.gen := by rw [requestPayload_fcpRequest h hm]
  rw [loadFcpWrite_eq h, submitAsync_ok (s := clearSubmits (u.setReq (fcpRequest b u))) ha, go_andThen, fcpCommandSent,
    ← hrecord]
  rfl

/-- A SEND_FCP past its guards, whose range is settled at `u` and whose write is accepted there, waits. -/
theorem exec_sendFcp_waits {s u : State} {b : List Byte} {op : Nat} (hp : s.phase ≠ .faulted)
    (hg : s.ctx.genValid = true) (hn : b.length ≤ s.params.maxPayload.toNat)
    (hu : fcpAllocate (fcpStart (s.setCmdOp 0xA)) = .go u) (hn' : b.length ≤ u.params.maxPayload.toNat)
    (hm : Memory.wf u.req.payload = true) (ha : submitAnswer u = .ok op) :
    exec (.sendFcp b) s = .next (fcpCommandSent b u) := by
  refine (accept_ready hp).trans ?_
  rw [sendFcpCommand, requireConnected_of (s.setCmdOp 0xA) hg, go_andThen, requireLength_of (s.setCmdOp 0xA) hn,
    go_andThen, hu, go_andThen, submitFcpWrite_ok hn' hm ha, go_state]

/-- Settles O47: the range as it was, or allocated first; then the write. -/
theorem sendFcpStarts : Obligations.SendFcpStarts := by
  intro s b hp hg hn hm r v
  refine ⟨fun op hv ha => ?_, fun op op' hv ha ha' => ?_⟩
  · exact exec_sendFcp_waits hp hg hn (fcpAllocate_of_valid hv) hn hm ha
  · have hrange := fcpAllocate_of_unallocated (s := fcpStart (s.setCmdOp 0xA)) hv ha
    have hsub : s.subOut ++ [.allocate s.params.fcpRespAddr s.params.fcpRespLen, asyncRecord r b s.ctx.gen]
        = (s.subOut ++ [.allocate s.params.fcpRespAddr s.params.fcpRespLen]) ++ [asyncRecord r b s.ctx.gen] := by simp
    rw [exec_sendFcp_waits hp hg hn hrange hn hm ha', hsub]
    rfl

end Sys2Proof.Machine
end

section
/-! PROOFS of the family 44_fcp.md: what FCP_WAIT makes of the write's own response (O48) and of the peer's requests
(O49). -/

namespace Sys2Proof.Machine

open Sys2Proof.Claims

/-! ## The completion test (R370) -/

theorem fcpInfo_eq (f : Flags) :
    fcpInfo f = (if f.fcpAckDone then 1 else 0) ||| (if f.fcpReqDone then 2 else 0) := by
  rw [fcpInfo, BitVec.or_comm]
  cases f.fcpAckDone <;> cases f.fcpReqDone <;> rfl

theorem finishFcp_eq_fcpFinished (status : BitVec 4) (s : State) : finishFcp status s = fcpFinished status s := by
  rw [finishFcp, finish_eq, fcpInfo_eq]
  rfl

theorem completeFcp_eq_fcpFinishedIfDone (s : State) : completeFcp s = fcpFinishedIfDone s := by
  simp only [completeFcp, fcpFinishedIfDone, fcpDone, Bool.and_eq_true, finishFcp_eq_fcpFinished]
  rfl

/-! ## One poll of FCP_WAIT -/

/-- A step of FCP_WAIT whose event lets the exchange go on to `t`: the completion test at `t`. -/
theorem step_fcpWait_go {s u t : State} {e : Event} (hp : s.phase = .fcpWait) (h : nextEvent s = .event e u)
    (he : onFcpEvent e u = .go t) : step s = .next (completeFcp t) := by
  rw [step_fcpWait hp, pollFcp_eq, h, Poll.resume, he]
  rfl

/-- A step of FCP_WAIT whose event ends the exchange at `t`. -/
theorem step_fcpWait_ended {s u t : State} {e : Event} (hp : s.phase = .fcpWait) (h : nextEvent s = .event e u)
    (he : onFcpEvent e u = .ended t) : step s = .next t := by
  rw [step_fcpWait hp, pollFcp_eq, h, Poll.resume, he]
  rfl

/-! ## The write's own response (R363) -/

theorem onFcpResponse_again {s : State} (h : s.flags.fcpAckDone = true) (rc : BitVec 5) :
    onFcpResponse rc s = .go s := if_pos h

theorem onFcpResponse_complete {s : State} (h : s.flags.fcpAckDone = false) :
    onFcpResponse 0 s = .go { s with fcp := { s.fcp with ackRcode := 0 },
                                     flags := { s.flags with fcpAckDone := true } } :=
  if_neg (by simp [h])

theorem onFcpResponse_failed {s : State} {rc : BitVec 5} (h : s.flags.fcpAckDone = false) (hrc : rc ≠ 0) :
    onFcpResponse rc s = .ended (fcpFinished 1 { s with fcp := { s.fcp with ackRcode := rc } }) := by
  have hrc' : rc ≠ rcodeComplete := hrc
  simp only [onFcpResponse, h, hrc', if_false, Bool.false_eq_true, finishFcp_eq_fcpFinished]
  rfl

/-- Settles O48: the first response by its rcode, and a second one. -/
theorem fcpAck : Obligations.FcpAck := by
  intro s u rc n p h hp he
  refine ⟨fun hack hreq => ?_, fun hack hrc => ?_, fun hack hrc => ?_⟩
  · exact step_fcpWait_discards he nofun hp (onFcpResponse_again (s := polled s) hack rc) (by simp [hreq])
  · subst hrc
    obtain rfl := nextEvent_eq_polled he nofun
    rw [step_fcpWait_go hp he (onFcpResponse_complete (s := polled s) hack), completeFcp_eq_fcpFinishedIfDone]
    rfl
  · obtain rfl := nextEvent_eq_polled he nofun
    exact step_fcpWait_ended hp he (onFcpResponse_failed (s := polled s) hack hrc)

/-! ## The peer's requests (R364 to R366) -/

theorem inFcpRange_iff (c : Context) (o : Offset) : inFcpRange c o = true ↔
    c.fcpRangeBase.toNat ≤ o.toNat ∧ o.toNat < c.fcpRangeBase.toNat + c.fcpRangeLen.toNat := by
  simp only [inFcpRange, Bool.and_eq_true, decide_eq_true_eq]

theorem onFcpRequest_outside {s : State} {o : Offset} (h : ¬ inFcpRange s.ctx o = true) (handle : Nat)
    (m : BitVec 16) (p : List Byte) : onFcpRequest handle o m p s = .go s := if_neg h

/-- A request in the range whose response is accepted: only the first one's payload is kept. -/
theorem onFcpRequest_answered {s : State} {o : Offset} {op : Nat} (h : inFcpRange s.ctx o = true)
    (ha : submitAnswer s = .ok op) (handle : Nat) (m : BitVec 16) (p : List Byte) :
    onFcpRequest handle o m p s = .go (if s.flags.fcpReqDone then s.putSub (.response handle 0 [])
      else storeFcpReply m p (s.putSub (.response handle 0 []))) := by
  rw [onFcpRequest, if_pos h, submitResponse, submit_ok ha]
  rfl

/-- A refused response ends the exchange before the payload is looked at. -/
theorem onFcpRequest_refused {s : State} {o : Offset} (h : inFcpRange s.ctx o = true)
    (ha : submitAnswer s = .rejected) (handle : Nat) (m : BitVec 16) (p : List Byte) :
    onFcpRequest handle o m p s = .ended (faultedWith 2 3 .faulted (s.putSub (.response handle 0 []))) := by
  rw [onFcpRequest, if_pos h, submitResponse, submit_rejected ha, raise_eq_faultedWith]
  rfl

/-- Settles O49: by the range, then by the answer to the response, then by whether a reply is kept already. -/
theorem fcpReply : Obligations.FcpReply := by
  intro s u h tc o m p hp he hawait
  refine ⟨fun hout => ?_, fun hlo hhi => ?_⟩
  · have hout' : ¬ inFcpRange (polled s).ctx o = true := mt (inFcpRange_iff s.ctx o).1 hout
    exact step_fcpWait_discards he nofun hp (onFcpRequest_outside hout' h m p) hawait
  · obtain rfl := nextEvent_eq_polled he nofun
    have hin : inFcpRange (polled s).ctx o = true := (inFcpRange_iff s.ctx o).2 ⟨hlo, hhi⟩
    refine ⟨fun op ha hreq => ?_, fun op ha hreq => ?_, fun ha => ?_⟩
    · have hev := onFcpRequest_answered hin ha h m p
      rw [if_neg (by simp [polled, hreq])] at hev
      rw [step_fcpWait_go hp he hev, completeFcp_eq_fcpFinishedIfDone]
      rfl
    · have hev := onFcpRequest_answered hin ha h m p
      rw [if_pos (show (polled s).flags.fcpReqDone = true from hreq)] at hev
      rw [step_fcpWait_go hp he hev,
        completeFcp_of_awaiting (s := (polled s).putSub (.response h 0 [])) hawait]
      rfl
    · exact step_fcpWait_ended hp he (onFcpRequest_refused hin ha h m p)

end Sys2Proof.Machine
end

section
/-! PROOFS of the family 45_remote_phy_regs.md: how SCAN_PHY_REGS starts (O50), its reply predicate (O51), and what
SCAN_WAIT makes of Sent events and received words (O52). -/

namespace Sys2Proof.Machine

open Sys2Proof.Claims

/-! ## Arming and the access packets (R392) -/

theorem armPhyRx_of_armed {s : State} (h : s.ctx.phyRxEn = true) : armPhyRx s = .go s := if_pos h

theorem armPhyRx_of_unarmed {s : State} {op : Nat} (h : s.ctx.phyRxEn = false) (ha : submitAnswer s = .ok op) :
    armPhyRx s = .go ((s.putSub .enablePhyRx).setCtx { s.ctx with phyRxEn := true }) := by
  simp [armPhyRx, h, submit_ok ha]

theorem submitAnswer_of_acceptsNext {s : State} {op : Nat} {ops : List Nat} {rest : List SubmitAnswer}
    (h : acceptsNext s (op :: ops) rest) : submitAnswer s = .ok op := by
  simp only [acceptsNext, List.map_cons, List.cons_append] at h
  simp only [submitAnswer, h]

/-- A submission takes the first of the listed acceptances. -/
theorem acceptsNext_putSub {s : State} {op : Nat} {ops : List Nat} {rest : List SubmitAnswer}
    (h : acceptsNext s (op :: ops) rest) (x : Submission) : acceptsNext (s.putSub x) ops rest :=
  congrArg List.tail h

/-- Accepted, the access packets go out one a register, in the order given. -/
theorem submitScan_ok (phy : BitVec 6) {rest : List SubmitAnswer} {regs : List Nat} :
    ∀ {ops : List Nat} {s : State}, ops.length = regs.length → acceptsNext s ops rest →
      submitScan phy regs s = .go { s with
        subOut := s.subOut ++ regs.map fun reg => scanPacket phy s.ctx.gen (BitVec.ofNat 32 reg),
        submitAnswers := rest } := by
  induction regs with
  | nil =>
    intro ops s hl ha
    obtain rfl := List.eq_nil_of_length_eq_zero hl
    have hrest : rest = s.submitAnswers := Eq.symm ha
    rw [submitScan, hrest, List.map_nil, List.append_nil]
  | cons reg regs ih =>
    intro ops s hl ha
    obtain ⟨op, ops, rfl⟩ := List.exists_cons_of_length_eq_add_one hl
    rw [submitScan, submitPhy_ok (submitAnswer_of_acceptsNext ha), go_andThen,
      ih (Nat.succ.inj hl) (acceptsNext_putSub ha _), List.map_cons, List.append_cons]
    rfl

/-! ## The command up to SCAN_WAIT (R390) -/

/-- A SCAN_PHY_REGS whose reception is settled at `u` and whose six packets are accepted there waits. -/
theorem exec_scanPhyRegs_waits {s u : State} {phy : BitVec 6} {ops : List Nat} {rest : List SubmitAnswer}
    (hp : s.phase ≠ .faulted) (hg : s.ctx.genValid = true) (hu : armPhyRx (scanStart phy (s.setCmdOp 0x9)) = .go u)
    (hl : ops.length = 6) (ha : acceptsNext u ops rest) :
    exec (.scanPhyRegs phy) s = .next { u with
      phase := .scanWait, subOut := u.subOut ++ [2, 3, 4, 5, 6, 7].map (scanPacket phy u.ctx.gen),
      submitAnswers := rest } := by
  refine (accept_ready hp).trans ?_
  rw [startScan, requireConnected_of (s.setCmdOp 0x9) hg, go_andThen, hu, go_andThen,
    submitScan_ok phy (regs := [2, 3, 4, 5, 6, 7]) hl ha]
  rfl

/-- Settles O50: reception as it was, or armed by the first of seven accepted submissions. -/
theorem scanStarts : Obligations.ScanStarts := by
  refine fun s phy ops rest hp hg => ⟨fun hrx hl ha => ?_, fun hrx hl ha => ?_⟩
  · have harm := armPhyRx_of_armed (s := scanStart phy (s.setCmdOp 0x9)) hrx
    rw [exec_scanPhyRegs_waits hp hg harm hl ha]
    rfl
  · obtain ⟨op, ops, rfl⟩ := List.exists_cons_of_length_eq_add_one hl
    have harm := armPhyRx_of_unarmed (s := scanStart phy (s.setCmdOp 0x9)) hrx (submitAnswer_of_acceptsNext ha)
    have ha' := acceptsNext_putSub ha .enablePhyRx
    rw [exec_scanPhyRegs_waits hp hg harm (Nat.succ.inj hl) ha', List.append_cons]
    rfl

/-! ## The reply predicate (R391) -/

/-- A mask of `n` ones from bit `lo` takes that field and leaves it in place. -/
theorem and_place_allOnes (w : Word) (lo n : Nat) :
    w &&& place (BitVec.allOnes n) lo = place (field w lo n) lo := by
  apply BitVec.eq_of_getLsbD_eq
  intro i hi
  simp only [BitVec.getLsbD_and, getLsbD_place, getLsbD_field, BitVec.getLsbD_allOnes]
  by_cases h : lo ≤ i
  · simp [hi, h, show lo + (i - lo) = i by omega, Bool.and_comm]
  · simp [h]

/-- A field in place is its upper part and its lower part in theirs. -/
theorem place_field_add (w : Word) (lo m n : Nat) :
    place (field w lo (m + n)) lo = place (field w (lo + m) n) (lo + m) ||| place (field w lo m) lo := by
  apply BitVec.eq_of_getLsbD_eq
  intro i hi
  simp only [BitVec.getLsbD_or, getLsbD_place, getLsbD_field]
  by_cases h : lo ≤ i
  · by_cases hm : lo + m ≤ i
    · simp [hi, h, hm, show lo + (i - lo) = i by omega, show lo + m + (i - (lo + m)) = i by omega,
        show i - lo < m + n ↔ i - (lo + m) < n by omega, show ¬ i - lo < m by omega]
    · simp [hi, h, hm, show i - lo < m + n by omega, show i - lo < m by omega]
  · simp [h, show ¬ lo + m ≤ i by omega]

/-- The word of the six fields that the scan's mask keeps of a packet: class, phy id, bits 23:22, type, page, port. -/
def scanKey (cls : BitVec 2) (phy : BitVec 6) (zero : BitVec 2) (type : BitVec 4) (page : BitVec 3) (port : BitVec 4) :
    Word :=
  place cls 30 ||| place phy 24 ||| place zero 22 ||| place type 18 ||| place page 15 ||| place port 11

theorem scanKey_inj {c c' z z' : BitVec 2} {p p' : BitVec 6} {t t' o o' : BitVec 4} {g g' : BitVec 3} :
    scanKey c p z t g o = scanKey c' p' z' t' g' o' ↔
      c = c' ∧ p = p' ∧ z = z' ∧ t = t' ∧ g = g' ∧ o = o' := by
  refine ⟨fun h => ⟨?_, ?_, ?_, ?_, ?_, ?_⟩, fun ⟨hc, hp, hz, ht, hg, ho⟩ => by rw [hc, hp, hz, ht, hg, ho]⟩
  · simpa [scanKey, field_place_same, field_place_disjoint] using congrArg (field · 30 2) h
  · simpa [scanKey, field_place_same, field_place_disjoint] using congrArg (field · 24 6) h
  · simpa [scanKey, field_place_same, field_place_disjoint] using congrArg (field · 22 2) h
  · simpa [scanKey, field_place_same, field_place_disjoint] using congrArg (field · 18 4) h
  · simpa [scanKey, field_place_same, field_place_disjoint] using congrArg (field · 15 3) h
  · simpa [scanKey, field_place_same, field_place_disjoint] using congrArg (field · 11 4) h

theorem and_scanMask (w : Word) : w &&& scanMask =
    scanKey (field w 30 2) (field w 24 6) (field w 22 2) (field w 18 4) (field w 15 3) (field w 11 4) := by
  calc w &&& scanMask
    _ = place (field w 11 21) 11 := and_place_allOnes w 11 21
    _ = place (field w 15 17) 15 ||| place (field w 11 4) 11 := place_field_add w 11 4 17
    _ = place (field w 18 14) 18 ||| place (field w 15 3) 15 ||| place (field w 11 4) 11 := by
      rw [place_field_add w 15 3 14]
    _ = place (field w 22 10) 22 ||| place (field w 18 4) 18 ||| place (field w 15 3) 15 |||
        place (field w 11 4) 11 := by rw [place_field_add w 18 4 10]
    _ = place (field w 24 8) 24 ||| place (field w 22 2) 22 ||| place (field w 18 4) 18 ||| place (field w 15 3) 15 |||
        place (field w 11 4) 11 := by rw [place_field_add w 22 2 8]
    _ = _ := by rw [place_field_add w 24 6 2]; rfl

/-- The bits of a remote reply of page 1, port 0 (R136). -/
theorem scanBits_eq_scanKey (phy : BitVec 6) : scanBits phy = scanKey 0 phy 0 0x7 1 0 := by
  have hconst : (0x001C8000 : Word) = place 0x7#4 18 ||| place 1#3 15 := rfl
  rw [scanBits, hconst, phyIdBits, scanKey]
  simp [place, BitVec.or_assoc]

/-- Settles O51: mask and bits are keys of the same six fields. -/
theorem scanReplyPredicate : Obligations.ScanReplyPredicate := by
  refine fun phy w => ⟨rfl, rfl, ?_⟩
  rw [matchesPending, beq_iff_eq, and_scanMask, scanBits_eq_scanKey, scanKey_inj]

/-! ## One poll of SCAN_WAIT -/

/-- A step of SCAN_WAIT whose event lets the scan go on to `t`: the completion test at `t`. -/
theorem step_scanWait_go {s u t : State} {e : Event} (hp : s.phase = .scanWait) (h : nextEvent s = .event e u)
    (he : onScanEvent e u = .go t) : step s = .next (completeScan t) := by
  rw [step_scanWait hp, pollScan_eq, h, Poll.resume, he]
  rfl

/-- A step of SCAN_WAIT whose event ends the scan at `t`. -/
theorem step_scanWait_ended {s u t : State} {e : Event} (hp : s.phase = .scanWait) (h : nextEvent s = .event e u)
    (he : onScanEvent e u = .ended t) : step s = .next t := by
  rw [step_scanWait hp, pollScan_eq, h, Poll.resume, he]
  rfl

/-! ## What a received word does (R393) -/

theorem onScanReply_discarded {s : State} {w : Word}
    (h : w &&& s.pending.mask ≠ s.pending.bits ∨ (field w 8 3).toNat < 2) : onScanReply w s = s := by
  refine if_neg fun ⟨hm, hr⟩ => ?_
  exact h.elim (absurd (beq_iff_eq.1 hm)) (Nat.not_lt.2 hr)

theorem onScanReply_recorded {s : State} {w : Word} (hm : w &&& s.pending.mask = s.pending.bits)
    (hr : 2 ≤ (field w 8 3).toNat) :
    onScanReply w s = s.setScan (recordReply s.scan (field w 8 3).toNat (field w 0 8)) :=
  if_pos ⟨beq_iff_eq.2 hm, hr⟩

/-- The value goes to the register that the reply names. -/
theorem setPhyReg_eq (p : PhyRegs) {r : Nat} (h : r < 8) (v : Byte) :
    setPhyReg p r v = { r2 := if r = 2 then v else p.r2, r3 := if r = 3 then v else p.r3,
                        r4 := if r = 4 then v else p.r4, r5 := if r = 5 then v else p.r5,
                        r6 := if r = 6 then v else p.r6, r7 := if r = 7 then v else p.r7 } := by
  interval_cases r <;> rfl

/-! ## Completion (R397) -/

/-- With all six registers received, the result bytes are the registers. -/
theorem scanData_of_complete {c : Scan} (h : c.rxMask = 0xFC) :
    scanData c = [c.regs.r2, c.regs.r3, c.regs.r4, c.regs.r5, c.regs.r6, c.regs.r7] := by
  rw [scanData, h]
  rfl

theorem completeScan_eq (s : State) : completeScan s = if s.scan.rxMask = 0xFC then
    { s with phase := .idle,
             resOut := s.resOut ++ [resultWords 0 s.cmdOp 0 0xFC
               [s.scan.regs.r2, s.scan.regs.r3, s.scan.regs.r4, s.scan.regs.r5, s.scan.regs.r6, s.scan.regs.r7]] }
    else s := by
  by_cases h : s.scan.rxMask = 0xFC
  · have hdone : scanDone s.scan.rxMask = true := beq_iff_eq.2 h
    rw [completeScan, if_pos hdone, if_pos h, finishScan, finish_eq, scanData_of_complete h, scanInfo, h]
    rfl
  · rw [completeScan_of_awaiting h, if_neg h]

/-- Settles O52: the failed send, then a received word by whether it is a reply for a register of the scan. -/
theorem scanEvents : Obligations.ScanEvents := by
  refine ⟨fun s u status ticks hp he hs => ?_, fun s u w hp he hmask => ⟨fun hd => ?_, fun hm hr => ?_⟩⟩
  · have hev : onScanEvent (.sent status ticks) u = .ended (raise .ioFailure infoSendFailed u) := if_neg hs
    rw [step_scanWait_ended hp he hev, raise_eq_faultedWith]
    rfl
  · have hev : onScanEvent (.phyReceived w) (polled s) = .go (polled s) :=
      congrArg Flow.go (onScanReply_discarded (s := polled s) hd)
    exact step_scanWait_discards he nofun hp hev hmask
  · obtain rfl := nextEvent_eq_polled he nofun
    have hev : onScanEvent (.phyReceived w) (polled s) =
        .go ((polled s).setScan (recordReply s.scan (field w 8 3).toNat (field w 0 8))) :=
      congrArg Flow.go (onScanReply_recorded (s := polled s) hm hr)
    rw [step_scanWait_go hp he hev, completeScan_eq, recordReply, setPhyReg_eq _ (field w 8 3).isLt]
    rfl

end Sys2Proof.Machine
end

section
/-! PROOFS of the family 46_self_id.md: what DECODE_SELF_ID answers (O53), what ENCODE_SELF_ID answers (O54), and that
decoding an encoded chain gives the fields record back (O55). -/

namespace Sys2Proof.Machine

open Sys2Proof.Claims

/-! ## Result records of whole words (R126) -/

/-- The result record of an OK ending whose data is whole words. -/
theorem resultWords_ok_bytesOf (opc : BitVec 4) (info : Word) {ws : List Word} (h : 4 * ws.length < 2 ^ 16) :
    resultWords 0 opc 0 info (bytesOf ws) = (place opc 24 ||| BitVec.ofNat 32 (4 * ws.length)) :: info :: ws := by
  have hlen : place (BitVec.ofNat 16 (4 * ws.length)) 0 = BitVec.ofNat 32 (4 * ws.length) := by
    rw [place, BitVec.shiftLeft_zero]
    exact BitVec.setWidth_ofNat_of_le_of_lt (by decide) h
  have hzero : place (0 : BitVec 4) 28 = 0#32 ∧ place (0 : BitVec 5) 16 = 0#32 := ⟨rfl, rfl⟩
  rw [resultWords, bytesOf_length, packBytes_bytesOf, hlen, hzero.1, hzero.2, BitVec.zero_or, BitVec.or_zero]

/-- An OK ending whose data is whole words. -/
theorem finish_ok_bytesOf (opc : BitVec 4) (info : Word) {ws : List Word} (h : 4 * ws.length < 2 ^ 16) (s : State) :
    finish statusOk 0 info (bytesOf ws) (s.setCmdOp opc) = { s with
      cmdOp := opc, phase := .idle,
      resOut := s.resOut ++ [(place opc 24 ||| BitVec.ofNat 32 (4 * ws.length)) :: info :: ws] } := by
  rw [finish_eq, statusOk, resultWords_ok_bytesOf _ _ h]
  rfl

/-! ## The count check (R425, R427) -/

theorem requireChainCount_of {n : BitVec 16} (h : 1 ≤ n.toNat ∧ n.toNat ≤ 3) (s : State) :
    requireChainCount n s = .go s :=
  if_pos h

theorem requireChainCount_of_not {n : BitVec 16} (h : ¬ (1 ≤ n.toNat ∧ n.toNat ≤ 3)) (s : State) :
    requireChainCount n s = .ended (faultedWith 7 5 .idle s) := by
  rw [requireChainCount, if_neg h, raise_eq_faultedWith]
  rfl

/-- A command that begins with the count check ends there on a bad count. -/
theorem accept_badChainCount {s : State} {n : BitVec 16} (hp : s.phase ≠ .faulted)
    (hn : ¬ (1 ≤ n.toNat ∧ n.toNat ≤ 3)) (opc : BitVec 4) (k : State → Flow) :
    accept opc (fun s => (requireChainCount n s).andThen k) s
      = .next (faultedWith 7 5 .idle { s with cmdOp := opc }) := by
  rw [accept_ready hp, requireChainCount_of_not hn, ended_andThen, ended_state]
  rfl

/-! ## The words consumed (R421) -/

theorem moreFollows_iff (w : Word) : moreFollows w = true ↔ field w 0 1 = 1 := beq_iff_eq

theorem field_zero_of_not_moreFollows {w : Word} (h : moreFollows w = false) : field w 0 1 = 0 := by
  have hbit : ∀ v : BitVec 1, v ≠ 1 → v = 0 := by decide
  exact hbit _ (beq_eq_false_iff_ne.1 h)

/-- `ChainLength(n, W)` by its `m` bits: set in every consumed word but the last, clear in the last
one if words remain. -/
theorem chainLength_spec {n : Nat} (h1 : 1 ≤ n) (h3 : n ≤ 3) (ws : List Word) :
    1 ≤ chainLength n ws ∧ chainLength n ws ≤ n ∧
      (∀ j, j + 1 < chainLength n ws → moreFollows (chainWord ws j) = true) ∧
      (chainLength n ws < n → moreFollows (chainWord ws (chainLength n ws - 1)) = false) := by
  unfold chainLength
  split_ifs with hfirst hsecond
  · refine ⟨by omega, hsecond.1, fun j hj => ?_, fun h => by omega⟩
    have hj2 : j < 2 := by omega
    interval_cases j
    · exact hfirst.2
    · exact hsecond.2
  · refine ⟨by omega, hfirst.1, fun j hj => ?_, fun h => by simpa [h] using hsecond⟩
    obtain rfl : j = 0 := by omega
    exact hfirst.2
  · exact ⟨le_refl 1, h1, fun j hj => by omega, fun h => by simpa [h] using hfirst⟩

/-- A chain whose `m` bits announce every further word is consumed whole. -/
theorem chainLength_eq_count {n : Nat} (h1 : 1 ≤ n) (h3 : n ≤ 3) {ws : List Word}
    (h : ∀ j, j + 1 < n → moreFollows (chainWord ws j) = true) : chainLength n ws = n := by
  obtain ⟨hpos, hle, -, hlast⟩ := chainLength_spec h1 h3 ws
  by_contra hne
  have hlt : chainLength n ws < n := by omega
  exact absurd (h (chainLength n ws - 1) (by omega)) (by simp [hlast hlt])

/-! ## The ports of a chain (R423) -/

/-- The sixteen port fields of `Ports(k, W)`. -/
theorem portField_chainPorts (k : Nat) (ws : List Word) {p : Nat} (hp : p < 16) :
    portField (chainPorts k ws) p = chainPort k ws p := by
  have hmem : p ∈ List.range 16 := List.mem_range.2 hp
  rw [portField, chainPorts, field_foldl_place (chainPort k ws) 30 p _ _ (by omega) (by omega)
    (by intro q hq; have := List.mem_range.1 hq; omega) List.nodup_range, field_zero, if_pos hmem,
    BitVec.ofNat_eq_ofNat, BitVec.zero_or]

/-! ## DECODE_SELF_ID -/

/-- The whole next state of DECODE_SELF_ID on a good count. -/
theorem exec_decodeSelfId_counted {s : State} {n : BitVec 16} (hp : s.phase ≠ .faulted)
    (hn : 1 ≤ n.toNat ∧ n.toNat ≤ 3) (ws : List Word) :
    exec (.decodeSelfId n ws) s = .next { s with
      cmdOp := 0x7, phase := .idle,
      resOut := s.resOut ++ [[0x07000008, BitVec.ofNat 32 (chainLength n.toNat ws), nodeFields ws,
        chainPorts (chainLength n.toNat ws) ws]] } := by
  have hlen : 4 * [nodeFields ws, chainPorts (chainLength n.toNat ws) ws].length = 8 := rfl
  have hheader : place (0x7 : BitVec 4) 24 ||| BitVec.ofNat 32 8 = 0x07000008 := rfl
  refine (accept_ready hp).trans ?_
  rw [decodeChain, requireChainCount_of hn, go_andThen, ended_state, finish_ok_bytesOf _ _ (by rw [hlen]; decide), hlen,
    hheader]

/-- Settles O53: the chain length by its `m` bits, the count check, and the port fields by their places. -/
theorem decodeSelfIdResult : Obligations.DecodeSelfIdResult := by
  refine fun s n ws hp => ⟨fun h1 h3 _ => ?_, fun hn => accept_badChainCount hp hn 0x7 _, fun k p hport => ?_⟩
  · obtain ⟨hpos, hle, hmore, hlast⟩ := chainLength_spec h1 h3 ws
    exact ⟨chainLength n.toNat ws, hpos, hle, fun j hj => (moreFollows_iff _).1 (hmore j hj),
      fun h => field_zero_of_not_moreFollows (hlast h), exec_decodeSelfId_counted hp ⟨h1, h3⟩ ws⟩
  · have hplace : ∀ j, 17 - 2 * j - 1 = 16 - 2 * j := fun j => by omega
    simp only [hplace]
    exact portField_chainPorts k ws hport

/-! ## The field checks of ENCODE_SELF_ID (R427, R428) -/

theorem requireCarriedFields_of {n : Nat} {f0 f1 : Word} (h0 : f0 &&& ~~~fieldMaskF0 = 0)
    (h1 : f1 &&& ~~~carriedPorts n = 0) (s : State) : requireCarriedFields n f0 f1 s = .go s :=
  if_pos ⟨h0, h1⟩

theorem requireCarriedFields_of_not {n : Nat} {f0 f1 : Word}
    (h : f0 &&& ~~~fieldMaskF0 ≠ 0 ∨ f1 &&& ~~~carriedPorts n ≠ 0) (s : State) :
    requireCarriedFields n f0 f1 s = .ended (faultedWith 7 2 .idle s) := by
  rw [requireCarriedFields, if_neg (not_and_or.2 h), raise_eq_faultedWith]
  rfl

/-- `CarriedPorts` of a header's count. -/
theorem carriedPorts_toNat (n : BitVec 16) :
    carriedPorts n.toNat = if n = 1 then 0xFC000000 else if n = 2 then 0xFFFFFC00 else 0xFFFFFFFF := by
  have h (m : BitVec 16) : n = m ↔ n.toNat = m.toNat := BitVec.toNat_inj.symm
  simp only [carriedPorts, h]
  split <;> simp_all

/-! ## The chain words (R427) -/

/-- The model's chain is the words of R427. -/
theorem selfIdChain_eq (n : Nat) (f0 f1 : Word) : selfIdChain n f0 f1 = (selfIdWords n f0 f1).take n := by
  rw [selfIdChain, selfIdWord1_eq, selfIdWord2_eq]
  rfl

theorem selfIdChain_length {n : Nat} (h : n ≤ 3) (f0 f1 : Word) : (selfIdChain n f0 f1).length = n := by
  simpa [selfIdChain] using h

/-- Word `i` of an `n`-word chain is packet #i. -/
theorem chainWord_selfIdChain {n i : Nat} (h : i < n) (f0 f1 : Word) :
    chainWord (selfIdChain n f0 f1) i
      = chainWord [selfIdWord0 n f0 f1, selfIdWord1 n f0 f1, selfIdWord2 f0 f1] i := by
  simp [chainWord, selfIdChain, List.getD_eq_getElem?_getD, List.getElem?_take_of_lt h]

/-! ## ENCODE_SELF_ID -/

/-- ENCODE_SELF_ID on a good count goes on to its field checks and then to the chain words. -/
theorem exec_encodeSelfId_counted {s : State} {n : BitVec 16} (hp : s.phase ≠ .faulted)
    (hn : 1 ≤ n.toNat ∧ n.toNat ≤ 3) (f0 f1 : Word) :
    exec (.encodeSelfId n f0 f1) s = .next ((requireCarriedFields n.toNat f0 f1 (s.setCmdOp 0x8)).andThen fun s =>
      .ended (finish statusOk 0 0 (bytesOf (selfIdChain n.toNat f0 f1)) s)).state := by
  refine (accept_ready hp).trans ?_
  rw [encodeChain, requireChainCount_of hn, go_andThen]

/-- Settles O54: the count check, the field checks, then the chain words of `selfIdChain_eq`. -/
theorem encodeSelfIdResult : Obligations.EncodeSelfIdResult := by
  refine fun s n f0 f1 hp => ⟨fun hn => accept_badChainCount hp hn 0x8 _, fun h1 h3 => ?_⟩
  simp only [← carriedPorts_toNat]
  refine ⟨fun hbad => ?_, fun hf0 hf1 => ?_⟩
  · rw [exec_encodeSelfId_counted hp ⟨h1, h3⟩, requireCarriedFields_of_not hbad, ended_andThen, ended_state]
    rfl
  · have hlen := selfIdChain_length h3 f0 f1
    have hheader : place (0x8 : BitVec 4) 24 = 0x08000000 := rfl
    rw [exec_encodeSelfId_counted hp ⟨h1, h3⟩, requireCarriedFields_of hf0 hf1, go_andThen, ended_state,
      finish_ok_bytesOf _ _ (by omega), hlen, hheader, selfIdChain_eq]

/-! ## Reading an encoded chain back (R429) -/

theorem field_and (v w : Word) (lo len : Nat) : field (v &&& w) lo len = field v lo len &&& field w lo len := by
  apply BitVec.eq_of_getLsbD_eq
  intro i hi
  simp only [getLsbD_field, BitVec.getLsbD_and, hi, decide_true, Bool.true_and]

/-- A word with no bit outside a mask is its own masked part. -/
theorem and_mask_eq_self {w m : Word} (h : w &&& ~~~m = 0) : w &&& m = w := by
  apply BitVec.eq_of_getLsbD_eq
  intro i hi
  have hw := congrArg (fun v => v.getLsbD i) h
  simp only [BitVec.getLsbD_and, BitVec.getLsbD_not, hi] at hw ⊢
  cases hm : m.getLsbD i <;> simp_all

/-- A field that lies outside the mask of a word is 0. -/
theorem field_zero_of_masked {w m : Word} {lo len : Nat} (h : w &&& ~~~m = 0) (hm : field m lo len = 0) :
    field w lo len = 0 := by
  rw [← and_mask_eq_self h, field_and, hm, BitVec.ofNat_eq_ofNat, BitVec.and_zero]

/-- Packet #0 has its `m` bit set when more packets follow. -/
theorem selfIdWord0_more {n : Nat} (h : 1 < n) (f0 f1 : Word) : moreFollows (selfIdWord0 n f0 f1) = true := by
  have hone : ∀ v : BitVec 1, v ||| field 1 0 1 = 1 := by decide
  rw [moreFollows_iff, selfIdWord0, if_pos h, field_or]
  exact hone _

/-- `FIELD_MASK_F0` reads `F0` back from packet #0. -/
theorem selfIdWord0_fields {f0 : Word} (h : f0 &&& ~~~fieldMaskF0 = 0) (n : Nat) (f1 : Word) :
    selfIdWord0 n f0 f1 &&& fieldMaskF0 = f0 := by
  have hmark : (0x80000000 : Word) &&& fieldMaskF0 = 0#32 := rfl
  have hports : ∀ v : BitVec 2, place v 6 &&& fieldMaskF0 = 0#32 ∧ place v 4 &&& fieldMaskF0 = 0#32 ∧
      place v 2 &&& fieldMaskF0 = 0#32 := by decide
  have hmore : (if 1 < n then (1 : Word) else 0) &&& fieldMaskF0 = 0#32 := by split <;> rfl
  simp only [selfIdWord0, BitVec.and_or_distrib_right, hmark, hmore, and_mask_eq_self h, hports, BitVec.zero_or,
    BitVec.or_zero]

/-- The port fields of packet #0 (46_self_id.md R427). -/
theorem selfIdWord0_port {f0 : Word} (h : f0 &&& ~~~fieldMaskF0 = 0) (n : Nat) (f1 : Word) {p : Nat} (hp : p < 3) :
    field (selfIdWord0 n f0 f1) (6 - 2 * p) 2 = portField f1 p := by
  have hf0 : field f0 (6 - 2 * p) 2 = 0 := field_zero_of_masked h (by interval_cases p <;> rfl)
  have hmark : field 0x80000000 (6 - 2 * p) 2 = 0 := by interval_cases p <;> rfl
  have hmore : field (if 1 < n then (1 : Word) else 0) (6 - 2 * p) 2 = 0 := by
    split <;> interval_cases p <;> rfl
  simp only [selfIdWord0, field_or, hf0, hmark, hmore]
  interval_cases p <;> simp [field_place_same, field_place_disjoint]

/-- A port that an `n`-word chain does not carry has state 0 in every accepted fields record (46_self_id.md R428). -/
theorem portField_zero_of_uncarried {n p : Nat} {f1 : Word} (h : f1 &&& ~~~carriedPorts n = 0)
    (hp : p < 16) (hn : n = 1 ∧ 3 ≤ p ∨ n = 2 ∧ 11 ≤ p) : portField f1 p = 0 := by
  refine field_zero_of_masked h ?_
  rcases hn with ⟨rfl, h3⟩ | ⟨rfl, h11⟩ <;> interval_cases p <;> rfl

/-- The `m` bits of an encoded chain announce every further word. -/
theorem selfIdChain_more {n j : Nat} (h3 : n ≤ 3) (hj : j + 1 < n) (f0 f1 : Word) :
    moreFollows (chainWord (selfIdChain n f0 f1) j) = true := by
  rw [chainWord_selfIdChain (by omega)]
  have hj2 : j < 2 := by omega
  interval_cases j
  · exact selfIdWord0_more hj f0 f1
  · exact (selfIdWord1_more n f0 f1).trans (decide_eq_true hj)

/-- Every port of an encoded chain, carried or not, is read back. -/
theorem chainPort_selfIdChain {n p : Nat} {f0 f1 : Word} (h1 : 1 ≤ n) (h3 : n ≤ 3) (h0 : f0 &&& ~~~fieldMaskF0 = 0)
    (hf1 : f1 &&& ~~~carriedPorts n = 0) (hp : p < 16) : chainPort n (selfIdChain n f0 f1) p = portField f1 p := by
  unfold chainPort
  split_ifs with hword0 hword1 hcarried1 hcarried2
  · rw [chainWord_selfIdChain (by omega)]
    exact selfIdWord0_port h0 n f1 hword0
  · rw [chainWord_selfIdChain (by omega)]
    exact (selfIdWord1_port f0 f1 n (p - 3) (by omega)).trans (by rw [Nat.add_sub_cancel' (by omega)])
  · exact (portField_zero_of_uncarried hf1 hp (by omega)).symm
  · rw [chainWord_selfIdChain (by omega)]
    exact (selfIdWord2_port f0 f1 (p - 11) (by omega)).trans (by rw [Nat.add_sub_cancel' (by omega)])
  · exact (portField_zero_of_uncarried hf1 hp (by omega)).symm

theorem chainPorts_selfIdChain {n : Nat} {f0 f1 : Word} (h1 : 1 ≤ n) (h3 : n ≤ 3) (h0 : f0 &&& ~~~fieldMaskF0 = 0)
    (hf1 : f1 &&& ~~~carriedPorts n = 0) : chainPorts n (selfIdChain n f0 f1) = f1 :=
  eq_of_portFields fun _ hp => (portField_chainPorts n _ hp).trans (chainPort_selfIdChain h1 h3 h0 hf1 hp)

theorem nodeFields_selfIdChain {n : Nat} {f0 : Word} (h1 : 1 ≤ n) (h0 : f0 &&& ~~~fieldMaskF0 = 0) (f1 : Word) :
    nodeFields (selfIdChain n f0 f1) = f0 := by
  rw [nodeFields, chainWord_selfIdChain h1]
  exact selfIdWord0_fields h0 n f1

/-- Settles O55: the encoded chain is consumed whole, and its node fields and ports are the record's. -/
theorem selfIdRoundTrip : Obligations.SelfIdRoundTrip := by
  intro s n f0 f1 hp h1 h3 h0 hf1
  rw [← carriedPorts_toNat] at hf1
  have hlen : chainLength n.toNat (selfIdChain n.toNat f0 f1) = n.toNat :=
    chainLength_eq_count h1 h3 fun j hj => selfIdChain_more h3 hj f0 f1
  rw [← selfIdChain_eq, exec_decodeSelfId_counted hp ⟨h1, h3⟩, hlen, nodeFields_selfIdChain h1 h0,
    chainPorts_selfIdChain h1 h3 h0 hf1, BitVec.ofNat_toNat]

end Sys2Proof.Machine
end

section
/-! PROOFS of the family 47_context_commands.md: the records that CheckHeader refuses (O6), and the illegal opcodes
(O22). -/

namespace Sys2Proof.Machine

open Sys2Proof.Claims

/-! ## A record that ends in InvalidArgument whatever the state -/

/-- Outside FAULTED a body that only raises InvalidArgument writes `CMD_OP` and takes that fault (R465, R512). -/
theorem accept_invalidArgument {s : State} (hp : s.phase ≠ .faulted) (opc : BitVec 4) (info : Word) :
    accept opc (fun s => .ended (raise .invalidArgument info s)) s
      = .next (faultedWith 7 info .idle { s with cmdOp := opc }) := by
  rw [accept_ready hp, ended_state, raise_eq_faultedWith]
  rfl

/-! ## Reserved bits (R466) -/

/-- The checks of CheckHeader as conditions on the header and the first operand word. -/
theorem reservedBitsSet_iff (h : Word) (ops : List Word) :
    reservedBitsSet h ops = true ↔
      headerRsv h ≠ 0
      ∨ (headerSub h ≠ 0 ∧ headerOpc h ≠ 0x5 ∧ headerOpc h ≠ 0x6 ∧ headerOpc h ≠ 0xB)
      ∨ (headerArg h ≠ 0 ∧ (headerOpc h = 0x0 ∨ headerOpc h = 0x1 ∨ headerOpc h = 0x2 ∨ headerOpc h = 0xB))
      ∨ (headerOpc h = 0x9 ∧ field h 6 10 ≠ 0)
      ∨ ((headerOpc h = 0x3 ∨ headerOpc h = 0x4 ∨ headerOpc h = 0x5) ∧ field (operand ops 0) 16 16 ≠ 0) := by
  have hopc (k : BitVec 4) : (headerOpc h).toNat = k.toNat ↔ headerOpc h = k := BitVec.toNat_inj
  simp only [reservedBitsSet, Bool.or_eq_true, Bool.and_eq_true, Bool.not_eq_true', Bool.or_eq_false_iff, beq_iff_eq,
    beq_eq_false_iff_ne, bne_iff_ne, ne_eq, or_assoc, and_assoc, ← hopc]
  rfl

/-- Below opcode 0xC a record with a reserved bit set is rejected, whatever else it holds (R151, R466). -/
theorem decodeRecord_reservedBits {h : Word} {ops : List Word} (ho : (headerOpc h).toNat < 0xC)
    (hr : reservedBitsSet h ops = true) : decodeRecord h ops = .reject (.reservedBits (headerOpc h)) := by
  unfold decodeRecord
  split
  case h_5 => exact if_pos hr
  all_goals omega

/-- Settles O6: the record is rejected by name, and the rejection is InvalidArgument(RESERVED_BITS). -/
theorem reservedBitsRefused : Obligations.ReservedBitsRefused := by
  intro s h ops rest hp hc hl ho hbits
  have hready : ({ s with cmdIn := rest } : State).phase ≠ .faulted := by simp [hp]
  have hr : reservedBitsSet h ops = true := by
    rw [List.headD_eq_getD] at hbits
    exact (reservedBitsSet_iff h ops).2 hbits
  rw [step_rejects hp hc hl (decodeRecord_reservedBits ho hr)]
  exact accept_invalidArgument hready _ infoReservedBits

/-! ## Illegal opcodes (R464) -/

/-- An opcode from 0xC up is read before any other check, as an instruction whose meaning is the fault alone. -/
theorem decodeRecord_illegal {h : Word} (ho : 0xC ≤ (headerOpc h).toNat) (ops : List Word) :
    ∃ i, decodeRecord h ops = .instr i ∧ ∀ s, exec i s = accept (headerOpc h) illegalOpcode s := by
  have hopc : headerOpc h = 0xC ∨ headerOpc h = 0xD ∨ headerOpc h = 0xE ∨ headerOpc h = 0xF := by bv_omega
  rcases hopc with ho | ho | ho | ho
  · exact ⟨.illegalC (field h 0 28), by simp [decodeRecord, ho], fun s => by rw [ho]; rfl⟩
  · exact ⟨.illegalD (field h 0 28), by simp [decodeRecord, ho], fun s => by rw [ho]; rfl⟩
  · exact ⟨.illegalE (field h 0 28), by simp [decodeRecord, ho], fun s => by rw [ho]; rfl⟩
  · exact ⟨.illegalF (field h 0 28), by simp [decodeRecord, ho], fun s => by rw [ho]; rfl⟩

/-- An illegal opcode's record is its header alone (R125). -/
theorem operandCount_illegal {h : Word} (ho : 0xC ≤ (headerOpc h).toNat) : operandCount h = 0 := by
  unfold operandCount
  split
  case h_10 => rfl
  all_goals omega

/-- Settles O22: a step by what the header is read as, the four instructions by their one body. -/
theorem illegalOpcodesFault : Obligations.IllegalOpcodesFault := by
  refine ⟨fun s h rest hp hc ho => ?_, fun s _ hp => ?_⟩
  · have hready : (s.setCmdIn rest).phase ≠ .faulted := by simp [hp]
    obtain ⟨i, hi, hexec⟩ := decodeRecord_illegal ho []
    have hdec : decode s.cmdIn = some (.instr i, rest) := by
      rw [hc, ← hi]
      exact decode_record (ops := []) (operandCount_illegal ho) rest
    rw [step_of_accepting (.inl hp), acceptStep_of_decode hdec]
    exact (hexec _).trans (accept_invalidArgument hready _ infoIllegalOpcode)
  · exact ⟨accept_invalidArgument hp 0xC infoIllegalOpcode, accept_invalidArgument hp 0xD infoIllegalOpcode,
      accept_invalidArgument hp 0xE infoIllegalOpcode, accept_invalidArgument hp 0xF infoIllegalOpcode⟩

end Sys2Proof.Machine
end

section
/-! PROOFS of the family 47_context_commands.md: the connection guard, and the commands that do not look at the context
registers (O17). -/

namespace Sys2Proof.Machine

open Sys2Proof.Claims

/-! ## The guard's refusal (R462) -/

/-- Behind the connection guard an unconnected command ends in the guard's fault, whatever it would do next. -/
theorem accept_notConnected {s : State} (hp : s.phase ≠ .faulted) (hg : s.ctx.genValid = false) (opc : BitVec 4)
    (k : State → Flow) : accept opc (fun s => (requireConnected s).andThen k) s
      = .next (faultedWith 7 3 .idle { s with cmdOp := opc }) := by
  rw [accept_ready hp, requireConnected_of_not (s.setCmdOp opc) hg, ended_andThen, ended_state, raise_eq_faultedWith]
  rfl

theorem exec_notConnected {i : Instr} {s : State} (hi : guarded i = true) (hp : s.phase ≠ .faulted)
    (hg : s.ctx.genValid = false) : exec i s = .next (faultedWith 7 3 .idle { s with cmdOp := opcodeOf i }) := by
  cases i with
  | connect | encodeLockMaskSwap | encodeLockCompareSwap | encodeLockFetchAdd | encodeLockLittleAdd
  | encodeLockBoundedAdd | encodeLockWrapAdd | decodeSelfId | encodeSelfId | illegalC | illegalD | illegalE
  | illegalF => exact absurd hi Bool.false_ne_true
  | sendPhy | sendPhySym | asyncRead | asyncWrite | asyncLockMaskSwap | asyncLockCompareSwap | asyncLockFetchAdd
  | asyncLockLittleAdd | asyncLockBoundedAdd | asyncLockWrapAdd | scanPhyRegs | sendFcp | busResetReqLong
  | busResetReqShort => exact accept_notConnected hp hg _ _

/-! ## Bodies that do not look at the context registers -/

/-- The context registers of the state a command has reached. -/
def Flow.setCtx (c : Context) : Flow → Flow
  | .go s => .go (s.setCtx c)
  | .ended s => .ended (s.setCtx c)

theorem Flow.setCtx_state (c : Context) (f : Flow) : (f.setCtx c).state = f.state.setCtx c := by cases f <;> rfl

/-- A line of a command that neither reads nor writes the context registers. -/
def IgnoresContext (body : State → Flow) : Prop :=
  ∀ (s : State) (c : Context), body (s.setCtx c) = (body s).setCtx c

theorem IgnoresContext.andThen {f k : State → Flow} (hf : IgnoresContext f) (hk : IgnoresContext k) :
    IgnoresContext fun s => (f s).andThen k := by
  intro s c
  simp only [hf s c]
  cases f s with
  | go t => exact hk t c
  | ended t => rfl

theorem IgnoresContext.ite {f g : State → Flow} (p : Prop) [Decidable p] (hf : IgnoresContext f)
    (hg : IgnoresContext g) : IgnoresContext fun s => if p then f s else g s := by
  by_cases h : p
  · simpa only [if_pos h] using hf
  · simpa only [if_neg h] using hg

theorem ignoresContext_go : IgnoresContext .go := fun _ _ => rfl

theorem ignoresContext_raise (k : FaultKind) (info : Word) : IgnoresContext fun s => .ended (raise k info s) :=
  fun _ _ => rfl

theorem ignoresContext_finish (status : BitVec 4) (rcode : BitVec 5) (info : Word) (data : List Byte) :
    IgnoresContext fun s => .ended (finish status rcode info data s) := fun _ _ => rfl

theorem requireLockOperands_ignoresContext (k : LockKind) (a b : List Byte) :
    IgnoresContext (requireLockOperands k a b) := by
  unfold requireLockOperands
  cases lockWidthFault k a.length b.length with
  | none => exact ignoresContext_go
  | some info => exact ignoresContext_raise _ info

theorem requireChainCount_ignoresContext (n : BitVec 16) : IgnoresContext (requireChainCount n) :=
  .ite _ ignoresContext_go (ignoresContext_raise _ _)

theorem requireCarriedFields_ignoresContext (n : Nat) (f0 f1 : Word) : IgnoresContext (requireCarriedFields n f0 f1) :=
  .ite _ ignoresContext_go (ignoresContext_raise _ _)

theorem encodeLockOf_ignoresContext (k : LockKind) (a b : List Byte) : IgnoresContext (encodeLockOf k a b) :=
  (requireLockOperands_ignoresContext k a b).andThen (ignoresContext_finish _ _ _ _)

theorem decodeChain_ignoresContext (n : BitVec 16) (ws : List Word) : IgnoresContext (decodeChain n ws) :=
  (requireChainCount_ignoresContext n).andThen (ignoresContext_finish _ _ _ _)

theorem encodeChain_ignoresContext (n : BitVec 16) (f0 f1 : Word) : IgnoresContext (encodeChain n f0 f1) :=
  (requireChainCount_ignoresContext n).andThen
    ((requireCarriedFields_ignoresContext n.toNat f0 f1).andThen (ignoresContext_finish _ _ _ _))

/-- A record with such a body answers the same next state whatever the context registers hold; they stay as they are. -/
theorem accept_ignoresContext {body : State → Flow} (hb : IgnoresContext body) {opc : BitVec 4} {s t : State}
    (h : accept opc body s = .next t) (c : Context) : accept opc body (s.setCtx c) = .next (t.setCtx c) := by
  by_cases hp : s.phase = .faulted
  · cases (accept_faulted hp).symm.trans h
    exact accept_faulted (s := s.setCtx c) hp
  · cases (accept_ready hp).symm.trans h
    rw [accept_ready (s := s.setCtx c) hp, ← Flow.setCtx_state, ← hb (s.setCmdOp opc) c]
    rfl

/-- A pure encoder is a body that does not look at the context registers, run under its opcode. -/
theorem pureEncoder_body_ignoresContext {i : Instr} (hi : pureEncoder i = true) :
    ∃ body, IgnoresContext body ∧ ∀ s, exec i s = accept (opcodeOf i) body s := by
  cases i with
  | encodeLockMaskSwap a b => exact ⟨_, encodeLockOf_ignoresContext .maskSwap a b, fun _ => rfl⟩
  | encodeLockCompareSwap a b => exact ⟨_, encodeLockOf_ignoresContext .compareSwap a b, fun _ => rfl⟩
  | encodeLockFetchAdd a b => exact ⟨_, encodeLockOf_ignoresContext .fetchAdd a b, fun _ => rfl⟩
  | encodeLockLittleAdd a b => exact ⟨_, encodeLockOf_ignoresContext .littleAdd a b, fun _ => rfl⟩
  | encodeLockBoundedAdd a b => exact ⟨_, encodeLockOf_ignoresContext .boundedAdd a b, fun _ => rfl⟩
  | encodeLockWrapAdd a b => exact ⟨_, encodeLockOf_ignoresContext .wrapAdd a b, fun _ => rfl⟩
  | decodeSelfId n ws => exact ⟨_, decodeChain_ignoresContext n ws, fun _ => rfl⟩
  | encodeSelfId n f0 f1 => exact ⟨_, encodeChain_ignoresContext n f0 f1, fun _ => rfl⟩
  | connect | sendPhy | sendPhySym | asyncRead | asyncWrite | asyncLockMaskSwap | asyncLockCompareSwap
  | asyncLockFetchAdd | asyncLockLittleAdd | asyncLockBoundedAdd | asyncLockWrapAdd | scanPhyRegs | sendFcp
  | busResetReqLong | busResetReqShort | illegalC | illegalD | illegalE | illegalF =>
    exact absurd hi Bool.false_ne_true

/-- Settles O17: the guard ends the guarded commands and rejections, and the pure encoders do not see the context. -/
theorem connectionGuard : Obligations.ConnectionGuard := by
  refine ⟨fun i s hi hp hg => exec_notConnected hi hp hg, fun s hp hg => ?_, fun i s t c hi ht => ?_⟩
  · exact ⟨accept_notConnected hp hg 0x5 _, accept_notConnected hp hg 0xB _⟩
  · obtain ⟨body, hbody, hexec⟩ := pureEncoder_body_ignoresContext hi
    rw [hexec] at ht ⊢
    exact accept_ignoresContext hbody ht c

end Sys2Proof.Machine
end

section
/-! PROOFS of the family 47_context_commands.md: what CONNECT (O19, O20) and BUS_RESET_REQ (O21) do with
ENV's answer. -/

namespace Sys2Proof.Machine

open Sys2Proof.Claims

/-! ## CONNECT (R460, R461) -/

/-- Outside FAULTED CONNECT is one GET_INFO and what its answer gives. -/
theorem exec_connect {s : State} (hp : s.phase ≠ .faulted) :
    exec .connect s = .next (onGetInfo s.params.deviceHandle (infoAnswer s) (s.putGetInfo.setCmdOp 0x0)) :=
  accept_ready hp

/-- The result of CONNECT: the four context registers as whole words (R126). -/
theorem finishConnect_eq (s : State) :
    finishConnect (s.setCmdOp 0x0) = { s with
      cmdOp := 0x0, phase := .idle,
      resOut := s.resOut ++ [[0x00000010, 0, s.ctx.gen, s.ctx.localNode.setWidth 32, s.ctx.rootNode.setWidth 32,
        s.ctx.cardIndex]] } := by
  rw [finishConnect, contextData, finish_ok_bytesOf 0x0 0 (by simp)]
  simp only [List.length_cons, List.length_nil]
  rfl

/-- Settles O19: the record's fields are loaded into the context registers, and the result reports those. -/
theorem connectReadsContext : Obligations.ConnectReadsContext := by
  intro s handle r hp hh hr
  rw [exec_connect hp, hh, hr]
  exact congrArg Host.Outcome.next (finishConnect_eq (loadContext r s.putGetInfo))

/-- Settles O20: the refused GET_INFO, and the handle never opened. -/
theorem connectInfoFailure : Obligations.ConnectInfoFailure := by
  refine fun s hp => ⟨fun handle hh hr => ?_, fun hh => ?_⟩
  · rw [exec_connect hp, hh, hr, onGetInfo, onInfoAnswer, raise_eq_faultedWith]
    rfl
  · rw [exec_connect hp, hh, onGetInfo, raise_eq_faultedWith]
    rfl

/-! ## BUS_RESET_REQ (R463) -/

/-- A connected BUS_RESET_REQ whose submission ENV takes ends OK at once. -/
theorem accept_requestBusReset_ok {s : State} {op : Nat} (hp : s.phase ≠ .faulted) (hg : s.ctx.genValid = true)
    (ha : submitAnswer s = .ok op) (kind : BitVec 4) :
    accept 0xB (requestBusReset kind) s = .next { s with
      cmdOp := 0xB, phase := .idle, subOut := s.subOut ++ [.busReset kind],
      submitAnswers := s.submitAnswers.tail, resOut := s.resOut ++ [[0x0B000000, 0]] } := by
  rw [accept_ready hp, requestBusReset, requireConnected_of (s.setCmdOp 0xB) hg, go_andThen, initiateReset,
    submit_ok (s := s.setCmdOp 0xB) ha, go_andThen, ended_state]
  exact congrArg Host.Outcome.next (finish_ok_bytesOf (ws := []) 0xB 0 (by decide) (s.putSub (.busReset kind)))

/-- A refusal ends it in the fatal IoFailure(SUBMIT_REJECTED) (R217). -/
theorem accept_requestBusReset_rejected {s : State} (hp : s.phase ≠ .faulted) (hg : s.ctx.genValid = true)
    (ha : submitAnswer s = .rejected) (kind : BitVec 4) :
    accept 0xB (requestBusReset kind) s = .next (faultedWith 2 3 .faulted { s with
      cmdOp := 0xB, subOut := s.subOut ++ [.busReset kind], submitAnswers := s.submitAnswers.tail }) := by
  rw [accept_ready hp, requestBusReset, requireConnected_of (s.setCmdOp 0xB) hg, go_andThen, initiateReset,
    submit_rejected (s := s.setCmdOp 0xB) ha, ended_andThen, ended_state, raise_eq_faultedWith]
  rfl

/-- Settles O21, by ENV's answer, for the two kinds alike. -/
theorem busResetRequestSubmits : Obligations.BusResetRequestSubmits := fun _ hp hg =>
  ⟨fun _ ha => ⟨accept_requestBusReset_ok hp hg ha 0, accept_requestBusReset_ok hp hg ha 1⟩, fun ha =>
    ⟨accept_requestBusReset_rejected hp hg ha 0, accept_requestBusReset_rejected hp hg ha 1⟩⟩

end Sys2Proof.Machine
end

section
/-! PROOFS of the family 60_exceptions.md: every command is answered once (O15), and the validation faults come before
any submission or poll (O14). -/

namespace Sys2Proof.Machine

open Sys2Proof.Claims

/-! ## The one result record of a command (R512) -/

/-- From `s` to `t` the command in progress has ended with exactly one result record. -/
def Answers (s t : State) : Prop := t.phase.waiting = false ∧ ∃ ws, t.resOut = s.resOut ++ [ws]

/-- The phases in which an ending leaves the block are no wait phases. -/
theorem waiting_of_idle_or_faulted {p : Phase} (h : p = .idle ∨ p = .faulted) : p.waiting = false := by
  rcases h with rfl | rfl <;> rfl

theorem Ended.answers {s t : State} (h : Ended s t) : Answers s t := by
  obtain ⟨u, ws, hu, ht, _⟩ := h.after
  exact ⟨waiting_of_idle_or_faulted h.phase, ws, hu.resOut ▸ congrArg State.resOut ht⟩

theorem Connected.answers {s t : State} (h : Connected s t) : Answers s t := by
  obtain ⟨ws, _, ht, _, hp, _⟩ := h
  exact ⟨waiting_of_idle_or_faulted hp, ws, congrArg State.resOut ht⟩

theorem PollEnded.answers {s t : State} (h : PollEnded s t) : Answers s t := by
  obtain ⟨u, ws, ⟨_, _, _, hu⟩, ht, _, hp⟩ := h
  exact ⟨waiting_of_idle_or_faulted hp, ws, hu.resOut ▸ congrArg State.resOut ht⟩

theorem answerFaulted_answers (opc : BitVec 4) {s : State} (hp : s.phase = .faulted) :
    Answers s (answerFaulted opc s) :=
  ⟨waiting_of_idle_or_faulted (.inr hp), _, rfl⟩

/-! ## A command or a poll that goes on gives no result -/

theorem Waits.unanswered {s t : State} (h : Waits s t) : t.phase.waiting = true ∧ t.resOut = s.resOut := by
  obtain ⟨u, hu, ht, hp, _⟩ := h
  refine ⟨?_, (congrArg State.resOut ht).trans hu.resOut⟩
  rcases hp with hp | hp | hp | hp <;> rw [hp] <;> rfl

theorem Polled.unanswered {s t : State} (h : Polled s t) : t.phase = s.phase ∧ t.resOut = s.resOut := by
  obtain ⟨_, _, _, hu⟩ := h
  exact ⟨hu.phase, hu.resOut⟩

/-! ## Every record and every poll -/

/-- All that a record can do outside FAULTED, from the state with its opcode in `CMD_OP`. -/
theorem runRecord_cases {d : Decoded} {s t : State} (hp : s.phase ≠ .faulted) (h : runRecord d s = .next t) :
    ∃ opc, Connected (s.setCmdOp opc) t ∨ Waits (s.setCmdOp opc) t ∨ Ended (s.setCmdOp opc) t := by
  by_cases hd : d = .instr .connect
  · subst hd
    cases (accept_ready hp).symm.trans h
    exact ⟨0x0, .inl (connectDevice_outcome _)⟩
  · obtain ⟨t', ht', hout⟩ := runRecord_outcome d hp hd
    cases ht'.symm.trans h
    exact ⟨recordOpcode d, .inr hout⟩

/-- Outside FAULTED a record starts a wait or is answered. -/
theorem runRecord_waits_or_answers {d : Decoded} {s t : State} (hp : s.phase ≠ .faulted)
    (h : runRecord d s = .next t) : (t.phase.waiting = true ∧ t.resOut = s.resOut) ∨ Answers s t := by
  obtain ⟨opc, hconnected | hwaits | hended⟩ := runRecord_cases hp h
  · exact .inr hconnected.answers
  · exact .inl hwaits.unanswered
  · exact .inr hended.answers

/-- Settles O15: a step outside the wait phases by `acceptStep_outcome`, a poll by `poll_outcome`. -/
theorem oneResultPerCommand : Obligations.OneResultPerCommand := by
  refine fun s t h => ⟨fun hw => ?_, fun hw => (poll_outcome hw h).imp Polled.unanswered PollEnded.answers⟩
  rcases acceptStep_outcome hw h with hnone | ⟨d, rest, hdec, htaken⟩
  · exact .inl hnone
  · refine .inr ⟨by rw [hdec]; rfl, ?_⟩
    rcases htaken with ⟨hp, rfl⟩ | ⟨hp, hr⟩
    · exact .inr (answerFaulted_answers (s := s.setCmdIn rest) _ hp)
    · exact runRecord_waits_or_answers (s := s.setCmdIn rest) (by simp [hp]) hr

/-! ## The validation faults (R508) -/

/-- With no result given, no record is the one given. -/
theorem not_answered {s t : State} (h : t.resOut = s.resOut) (ws : List Word) : t.resOut ≠ s.resOut ++ [ws] :=
  fun hr => List.cons_ne_nil ws [] (List.self_eq_append_right.1 (h.symm.trans hr))

/-- A command that ends in a validation fault has written nothing but the fault registers. -/
theorem Ended.of_validation {s t : State} {ws : List Word} (h : Ended s t) (hr : t.resOut = s.resOut ++ [ws])
    (hst : resultStatus ws = 6 ∨ resultStatus ws = 7) :
    t = { s with faultRegs := t.faultRegs, resOut := t.resOut, phase := .idle } := by
  obtain ⟨u, ws', hu, ht, hvalid⟩ := h.after
  have hres : t.resOut = u.resOut ++ [ws'] := congrArg State.resOut ht
  have hws : [ws'] = [ws] := List.append_cancel_left ((hu.resOut ▸ hres).symm.trans hr)
  cases hws
  obtain ⟨rfl, hidle⟩ := hvalid hst
  rw [hres, ← hidle]
  exact ht

theorem Connected.no_validation {s t : State} {ws : List Word} (h : Connected s t) (hr : t.resOut = s.resOut ++ [ws]) :
    ¬ (resultStatus ws = 6 ∨ resultStatus ws = 7) := by
  obtain ⟨ws', _, ht, hst, _⟩ := h
  cases List.append_cancel_left ((congrArg State.resOut ht).symm.trans hr)
  exact hst

theorem PollEnded.no_validation {s t : State} {ws : List Word} (h : PollEnded s t) (hr : t.resOut = s.resOut ++ [ws]) :
    ¬ (resultStatus ws = 6 ∨ resultStatus ws = 7) := by
  obtain ⟨u, ws', hu, ht, hst, _⟩ := h
  have hres : t.resOut = s.resOut ++ [ws'] := hu.unanswered.2 ▸ congrArg State.resOut ht
  cases List.append_cancel_left (hres.symm.trans hr)
  exact hst

/-- Settles O14: of the outcomes of a record, only its end before any progress carries a validation fault; of those of a
poll, none does. -/
theorem validationBeforeSend : Obligations.ValidationBeforeSend := by
  refine ⟨fun d s t ws hp h hr hst => ?_, fun s t ws hw h hr => not_or.1 ?_⟩
  · have hready : s.phase ≠ .faulted := by simp [hp]
    obtain ⟨opc, hconnected | hwaits | hended⟩ := runRecord_cases hready h
    · exact absurd hst (hconnected.no_validation hr)
    · exact absurd hr (not_answered hwaits.unanswered.2 ws)
    · have ht := hended.of_validation hr hst
      have hcmd : t.cmdOp = opc := congrArg State.cmdOp ht
      rw [← hp] at ht
      rw [hcmd]
      exact ht
  · rcases poll_outcome hw h with hpolled | hended
    · exact absurd hr (not_answered hpolled.unanswered.2 ws)
    · exact hended.no_validation hr

end Sys2Proof.Machine
end

section
/-! PROOFS of the family 60_exceptions.md: what taking a fault does (O11), and how FAULTED answers (O12) and stays
(O13). -/

namespace Sys2Proof.Machine

open Sys2Proof.Claims

/-! ## Taking a fault (R509, R512) -/

/-- Settles O11, from the general form of a raised fault. -/
theorem faultTaking : Obligations.FaultTaking := fun info s =>
  ⟨raise_eq_faultedWith .ioFailure info s, raise_eq_faultedWith .protocolTimeout info s,
    raise_eq_faultedWith .protocolCorruption info s, raise_eq_faultedWith .busReset info s,
    raise_eq_faultedWith .invalidOperandWidth info s, raise_eq_faultedWith .invalidArgument info s⟩

/-! ## The opcode of a decoded record is the one in its header -/

/-- An instruction is read under its own opcode (R124). -/
theorem instrOpcode_of_reads {h : Word} {ops : List Word} {i : Instr} (hi : Reads h ops i) :
    instrOpcode i = headerOpc h := by
  cases hi with
  | asyncLock k ho _ => rw [ho]; cases k <;> rfl
  | encodeLock k ho _ => rw [ho]; cases k <;> rfl
  | connect ho _ | sendPhy ho _ | sendPhySym ho _ | asyncRead ho _ | asyncWrite ho _ | decodeSelfId ho _
  | encodeSelfId ho _ | scanPhyRegs ho _ | sendFcp ho _ | busResetReqLong ho _ _ | busResetReqShort ho _ _
  | illegalC ho | illegalD ho | illegalE ho | illegalF ho => rw [ho]; rfl

/-- Behind CheckHeader the rejected records are the bad lock and reset kinds, each under its command's opcode (R466). -/
theorem decodeChecked_rejectOpcode {h : Word} {ops : List Word} {r : Reject} (ho : (headerOpc h).toNat < 0xC)
    (hd : decodeChecked h ops = .reject r) : rejectOpcode r = headerOpc h := by
  unfold decodeChecked at hd
  split at hd
  case h_6 hc =>
    split at hd
    · cases hd
    · cases hd; exact (BitVec.eq_of_toNat_eq hc).symm
  case h_7 hc =>
    split at hd
    · cases hd
    · cases hd; exact (BitVec.eq_of_toNat_eq hc).symm
  case h_12 =>
    have hc : (headerOpc h).toNat = 0xB := by simp only [imp_false] at *; omega
    split at hd
    · cases hd
    · cases hd
    · cases hd; exact (BitVec.eq_of_toNat_eq hc).symm
  all_goals cases hd

theorem decodeRecord_rejectOpcode {h : Word} {ops : List Word} {r : Reject} (hd : decodeRecord h ops = .reject r) :
    rejectOpcode r = headerOpc h := by
  unfold decodeRecord at hd
  split at hd
  case h_5 =>
    split at hd
    · cases hd; rfl
    · exact decodeChecked_rejectOpcode (by simp only [imp_false] at *; omega) hd
  all_goals cases hd

theorem recordOpcode_decodeRecord (h : Word) (ops : List Word) : recordOpcode (decodeRecord h ops) = headerOpc h := by
  cases hd : decodeRecord h ops with
  | instr i => exact instrOpcode_of_reads (decodeRecord_reads hd)
  | reject r => exact decodeRecord_rejectOpcode hd

/-! ## FAULTED (R510, R511) -/

/-- Settles O12: the record is consumed whole, and its answer carries the header's opcode. -/
theorem faultedAnswersStoredFault : Obligations.FaultedAnswersStoredFault := by
  intro s h ops rest hp hc hl
  have hdec : decode s.cmdIn = some (decodeRecord h ops, rest) := by rw [hc, decode_record hl.symm]
  rw [step_of_accepting (.inr hp), acceptStep_of_decode hdec, runRecord_faulted (s := s.setCmdIn rest) _ hp,
    recordOpcode_decodeRecord, answerFaulted, resultWords_plain]
  rfl

/-- A step of FAULTED stays there with the stored fault. -/
theorem step_faulted {s : State} (hp : s.phase = .faulted) :
    ∃ t, step s = .next t ∧ t.phase = .faulted ∧ t.faultRegs = s.faultRegs := by
  rw [step_of_accepting (.inr hp)]
  cases hdec : decode s.cmdIn with
  | none => exact ⟨s, acceptStep_of_noRecord hdec, hp, rfl⟩
  | some record =>
    obtain ⟨d, rest⟩ := record
    rw [acceptStep_of_decode hdec, runRecord_faulted (s := s.setCmdIn rest) d hp]
    exact ⟨_, rfl, hp, rfl⟩

/-- Any number of steps of FAULTED stays there with the stored fault. -/
theorem run_faulted (k : Nat) {s t : State} (hp : s.phase = .faulted)
    (h : Host.Core.run Sys2Proof.core k s = .next t) : t.phase = .faulted ∧ t.faultRegs = s.faultRegs := by
  induction k generalizing s with
  | zero =>
    cases h
    exact ⟨hp, rfl⟩
  | succ k ih =>
    obtain ⟨u, hstep, hu, hregs⟩ := step_faulted hp
    rw [run_succ_of_step hstep] at h
    exact hregs ▸ ih hu h

/-- Settles O13: the runs by `run_faulted`; reset gives the phase R600 gives. -/
theorem faultedIsSticky : Obligations.FaultedIsSticky :=
  ⟨fun k _ _ hp h => run_faulted k hp h, fun _ => rfl⟩

end Sys2Proof.Machine
end

section
/-! PROOFS of the family 60_exceptions.md: a refusal while a PHY transaction starts (O24), and what a BusReset event
(O33) and a TIMEOUT (O34) do in the four wait phases. -/

namespace Sys2Proof.Machine

open Sys2Proof.Claims

/-! ## A refusal while a PHY transaction starts (R515) -/

/-- A refused ENABLE_PHY_RX ends the command before any packet (R217, R241). -/
theorem armForResponse_rejected {mask : Word} {s : State} (hm : mask ≠ 0) (hrx : s.ctx.phyRxEn = false)
    (ha : submitAnswer s = .rejected) :
    armForResponse mask s = .ended (faultedWith 2 3 .faulted (s.putSub .enablePhyRx)) := by
  simp only [armForResponse, if_neg hm, armPhyRx, hrx, Bool.false_eq_true, if_false, submit_rejected ha, ended_andThen,
    raise_eq_faultedWith]
  rfl

/-- A PHY transaction whose reception is settled at `u` and whose packet is refused ends there. -/
theorem sendPhyPacket_rejected {s u : State} {mask bits : Word} (hg : s.ctx.genValid = true)
    (hu : armForResponse mask (phyStart mask bits s) = .go u) (ha : submitAnswer u = .rejected) (d0 d1 : Word) :
    sendPhyPacket d0 d1 mask bits s = .ended (faultedWith 2 3 .faulted (u.putSub (.phy d0 d1 u.ctx.gen))) := by
  simp only [sendPhyPacket, requireConnected_of s hg, hu, submitPhy, submit_rejected ha, go_andThen, ended_andThen,
    raise_eq_faultedWith]
  rfl

/-- A transaction under either opcode whose ENABLE_PHY_RX is refused. -/
theorem accept_sendPhyPacket_enableRejected {s : State} {mask : Word} (hp : s.phase ≠ .faulted)
    (hg : s.ctx.genValid = true) (hm : mask ≠ 0) (hrx : s.ctx.phyRxEn = false) (ha : submitAnswer s = .rejected)
    (opc : BitVec 4) (d0 d1 bits : Word) :
    accept opc (sendPhyPacket d0 d1 mask bits) s = .next (faultedWith 2 3 .faulted { phyStarted opc mask bits s with
      subOut := s.subOut ++ [.enablePhyRx], submitAnswers := s.submitAnswers.tail }) := by
  have harm := armForResponse_rejected (s := phyStart mask bits (s.setCmdOp opc)) hm hrx ha
  rw [accept_ready hp, sendPhyPacket, requireConnected_of (s.setCmdOp opc) hg, go_andThen, harm, ended_andThen,
    ended_state]
  rfl

/-- A transaction under either opcode, where nothing has to be armed and the packet is refused. -/
theorem accept_sendPhyPacket_armedRejected {s : State} {mask : Word} (hp : s.phase ≠ .faulted)
    (hg : s.ctx.genValid = true) (hrx : mask = 0 ∨ s.ctx.phyRxEn = true) (ha : submitAnswer s = .rejected)
    (opc : BitVec 4) (d0 d1 bits : Word) :
    accept opc (sendPhyPacket d0 d1 mask bits) s = .next (faultedWith 2 3 .faulted { phyStarted opc mask bits s with
      subOut := s.subOut ++ [.phy d0 d1 s.ctx.gen], submitAnswers := s.submitAnswers.tail }) := by
  have harm := armForResponse_of_armed (s := phyStart mask bits (s.setCmdOp opc)) hrx
  rw [accept_ready hp, sendPhyPacket_rejected (s := s.setCmdOp opc) hg harm ha]
  rfl

/-- A transaction under either opcode that has armed reception and whose packet is refused: `PHY_RX_EN` stays set. -/
theorem accept_sendPhyPacket_armingRejected {s : State} {mask : Word} {op : Nat} (hp : s.phase ≠ .faulted)
    (hg : s.ctx.genValid = true) (hm : mask ≠ 0) (hrx : s.ctx.phyRxEn = false) (ha : submitAnswer s = .ok op)
    (ha' : submitAnswer (s.putSub .enablePhyRx) = .rejected) (opc : BitVec 4) (d0 d1 bits : Word) :
    accept opc (sendPhyPacket d0 d1 mask bits) s = .next (faultedWith 2 3 .faulted { phyStarted opc mask bits s with
      ctx := { s.ctx with phyRxEn := true }, subOut := s.subOut ++ [.enablePhyRx, .phy d0 d1 s.ctx.gen],
      submitAnswers := s.submitAnswers.tail.tail }) := by
  have harm := armForResponse_of_unarmed (s := phyStart mask bits (s.setCmdOp opc)) hm hrx ha
  rw [accept_ready hp, sendPhyPacket_rejected (s := s.setCmdOp opc) hg harm ha', List.append_cons]
  rfl

/-- Settles O24: both commands are one transaction under their own opcode and second word. -/
theorem sendPhyRefusedKeepsEffects : Obligations.SendPhyRefusedKeepsEffects := by
  intro s d0 d1 mask bits hp hg
  rw [← complementWord_eq_xor]
  refine ⟨fun hm hrx ha => ?_, fun hrx ha => ?_, fun op hm hrx ha ha' => ?_⟩
  · have h := accept_sendPhyPacket_enableRejected hp hg hm hrx ha
    exact ⟨h 0x1 d0 d1 bits, h 0x2 d0 (complementWord d0) bits⟩
  · have h := accept_sendPhyPacket_armedRejected hp hg hrx ha
    exact ⟨h 0x1 d0 d1 bits, h 0x2 d0 (complementWord d0) bits⟩
  · have h := accept_sendPhyPacket_armingRejected hp hg hm hrx ha ha'
    exact ⟨h 0x1 d0 d1 bits, h 0x2 d0 (complementWord d0) bits⟩

/-! ## BusReset events (R504) -/

/-- The poll that brings a BusReset event has cached its generation (R210). -/
theorem nextEvent_busReset_gen {s u : State} {g : Word} {root loc : BitVec 6}
    (h : nextEvent s = .event (.busReset g root loc) u) : u.ctx.gen = g := by
  rw [nextEvent_state h]
  rfl

/-- The BusReset fault outside ASYNC_WAIT reports the generation that the event brought. -/
theorem step_busReset_faults {s u : State} {g : Word} {root loc : BitVec 6} (hw : s.phase.waiting = true)
    (ha : s.phase ≠ .asyncWait) (h : nextEvent s = .event (.busReset g root loc) u) :
    step s = .next (faultedWith 5 g .faulted u) := by
  rw [step_of_busReset hw h, if_neg ha, nextEvent_busReset_gen h, raise_eq_faultedWith]
  rfl

/-- Settles O33, by the phase. -/
theorem busResetFatalOutsideAsync : Obligations.BusResetFatalOutsideAsync := by
  refine fun s u g root loc h => ⟨fun hp => ?_, fun hp => ?_⟩
  · rcases hp with hp | hp | hp <;> exact step_busReset_faults (by simp [hp, Phase.waiting]) (by simp [hp]) h
  · rw [step_of_busReset (by simp [hp, Phase.waiting]) h, if_pos hp]

/-! ## TIMEOUT (R502) -/

/-- The scan's timeout record carries `RX_MASK` and the bytes received so far (R396). -/
theorem scanTimeout_eq (s : State) : scanTimeout s = { s with
    faultRegs := { code := 3, info := 4 }, phase := .idle,
    resOut := s.resOut ++ [resultWords 3 s.cmdOp 0 (s.scan.rxMask.setWidth 32) (scanBytes s.scan)] } :=
  raiseReporting_eq .protocolTimeout (phaseCode .scanWait) (scanInfo s.scan) (scanData s.scan) s

/-- Settles O34: each phase's answer to TIMEOUT. -/
theorem timeoutEndsCommand : Obligations.TimeoutEndsCommand := by
  refine fun s u h => ⟨fun hp => ?_, fun hp => ?_, fun hp => ?_, fun hp => ?_⟩
  · rw [step_phyWait hp, pollPhy_eq, h, Poll.resume, raise_eq_faultedWith]
    rfl
  · rw [step_asyncWait hp, pollAsync_eq, h, Poll.resume, raise_eq_faultedWith]
    rfl
  · rw [step_fcpWait hp, pollFcp_eq, h, Poll.resume, raise_eq_faultedWith]
    rfl
  · obtain ⟨_, rfl⟩ := nextEvent_timeout h
    rw [step_scanWait hp, pollScan_eq, h, Poll.resume, scanTimeout_eq]
    rfl

end Sys2Proof.Machine
end

section
/-! PROOFS of the family 70_reset_and_hazards.md: what reset gives (O56), and the invariant after it (O57). -/

namespace Sys2Proof.Machine

open Sys2Proof.Claims

/-! ## What reset keeps: the parameters and nothing else (R600, R602) -/

@[simp] theorem applyReset_params (s : State) : (applyReset s).params = s.params := rfl

theorem applyReset_of_params_eq {s s' : State} (h : s'.params = s.params) : applyReset s' = applyReset s := by
  simp only [applyReset, h]

theorem applyReset_reset : applyReset State.reset = State.reset := rfl

/-- Settles O56: the values are those of `State.reset`; of the old state only the parameters stay. -/
theorem resetValues : Obligations.ResetValues := by
  rintro s t rfl
  exact ⟨rfl, rfl, rfl, rfl, rfl, rfl, rfl, rfl, rfl, rfl, rfl, applyReset_params s,
    fun _ h => applyReset_of_params_eq h⟩

/-! ## The invariant after reset -/

/-- Reset leaves no fault, no connection, no range and no awaited response, and its buffers are empty, so the parameters
that it keeps do not matter. -/
theorem applyReset_registersLegal (s : State) : RegistersLegal (applyReset s) where
  faultCodeLegal := ⟨show (0 : BitVec 4) ≠ 1 by decide, show (0 : BitVec 4).toNat < 8 by decide⟩
  rxMaskLegal := show (0 : BitVec 8) &&& 3 = 0 by decide
  chainHasRoom h := absurd h Bool.false_ne_true
  connectedOpen h := absurd h Bool.false_ne_true
  rangeLegal h := absurd h Bool.false_ne_true
  buffersCanonical := ⟨rfl, rfl, rfl⟩

theorem phaseLegal_of_idle {s : State} (hp : s.phase = .idle) : PhaseLegal s := by
  simp only [PhaseLegal, hp]

/-- Reset brings the invariant back from every state, FAULTED and the reserved phases included (R601). -/
theorem applyReset_inv (s : State) : State.Inv (applyReset s) :=
  (applyReset_registersLegal s).inv (phaseLegal_of_idle rfl)

/-- Settles O57: the state after reset is its own reset. -/
theorem invAtReset : Obligations.InvAtReset := by
  unfold Obligations.InvAtReset
  rw [← applyReset_reset]
  exact applyReset_inv State.reset

end Sys2Proof.Machine
end
